-- ==== Sys2Proof/Word.lean ====
section
/-! DEFINITION. The words of the PMSM core: the widths of 00_scope.md R9 and the plain types of the ports
(30_encoding.md R46, R50 to R55). -/

namespace Sys2Proof

/-- A u32: timer, tick sum, event count, speed, integral, output (00_scope.md R9). -/
abbrev U32 := BitVec 32

/-- A u16: a duty value or the torque command (00_scope.md R9). -/
abbrev U16 := BitVec 16

/-- A quantized gain, signed 32-bit two's complement (30_encoding.md R54). -/
abbrev Gain := BitVec 32

/-- The previous error, signed 33-bit (00_scope.md R9). -/
abbrev S33 := BitVec 33

/-- A Hall pattern: bit 0 is sensor A, bit 1 sensor B, bit 2 sensor C (30_encoding.md R50). -/
abbrev Hall := BitVec 3

/-- The command word `cmd[99:0]` (30_encoding.md R55). -/
abbrev CommandWord := BitVec 100

/-- One ASCII character of the telemetry line (60_exceptions.md R151). -/
abbrev Byte := BitVec 8

/-- A direction of rotation: 0 is Clockwise, 1 is CounterClockwise (30_encoding.md R51). -/
inductive Direction where
  | cw
  | ccw
  deriving DecidableEq, Repr, Inhabited

/-- A motor winding: A = 0, B = 1, C = 2 (40_commutation.md R67). -/
inductive Phase where
  | a
  | b
  | c
  deriving DecidableEq, Repr, Inhabited

/-- The sector of a valid Hall pattern, `h = 1 .. 6` (40_commutation.md R66). -/
inductive Sector where
  | s1
  | s2
  | s3
  | s4
  | s5
  | s6
  deriving DecidableEq, Repr

/-- A duty vector in the order of 10_state.md R25: index 0 = AH, 1 = AL, 2 = BH, 3 = BL, 4 = CH, 5 = CL. -/
structure DutyVec where
  ah : U16
  al : U16
  bh : U16
  bl : U16
  ch : U16
  cl : U16
  deriving DecidableEq, Repr, Inhabited

/-- What the input ports carry in one clock cycle (30_encoding.md R46). -/
structure Pins where
  /-- synchronous reset, active high (R48) -/
  rst : Bool
  /-- timer tick enable (R47) -/
  tick : Bool
  /-- the three Hall levels (R50) -/
  hallIn : Hall
  /-- a command word is present (R49) -/
  cmdValid : Bool
  /-- the command word (R55) -/
  cmd : CommandWord
  deriving DecidableEq, Repr, Inhabited

/-- The bits by which an operation is asked for, with the port they stand on: a command word, or the pattern on the
`tick` or `hall_in` pins (30_encoding.md R55, R62). -/
inductive PortWord where
  | tickPin (level : BitVec 1)
  | hallPins (h : Hall)
  | command (c : CommandWord)
  deriving DecidableEq, Repr

end Sys2Proof
end

