-- ==== Sys2Proof/Syntax.lean ====
section
/-! DEFINITION. The operations of the core as syntax: one constructor for each row of spec/opcode_table.json. -/

namespace Sys2Proof

/-- The thirteen rows of the opcode table: five host commands and three ranges of reserved opcodes (30_encoding.md
R60), two environment events (R62), three internal operations without an encoding (R62). -/
inductive Instr where
  /-- `NOP` (44_host_commands.md R119) -/
  | nop
  /-- `INIT kp, ki, kd` (R120) -/
  | init (kp ki kd : Gain)
  /-- `RETUNE kp, ki, kd` (R121) -/
  | retune (kp ki kd : Gain)
  /-- `STEP target, dir, en` (R122) -/
  | step (target : U32) (dir : Direction) (en : Bool)
  /-- `FORCE d0, d1, d2, d3, d4, d5` (45_pwm_arbiter.md R131) -/
  | force (d0 d1 d2 d3 d4 d5 : U16)
  /-- `RESERVED_5`: opcode 5 (30_encoding.md R61) -/
  | reserved5
  /-- `RESERVED_6_7`: opcode 6 or 7 (R61), the opcode kept as its four bits -/
  | reserved67 (op : BitVec 4)
  /-- `RESERVED_8_F`: opcode 8 to 15 (R61), the opcode kept as its four bits -/
  | reserved8F (op : BitVec 4)
  /-- `TICK` (43_dispatcher.md R107) -/
  | tick
  /-- `HALL h` (R111) -/
  | hall (h : Hall)
  /-- `DRIVE(h, d, t)`, internal (40_commutation.md R69) -/
  | drive (h : Hall) (d : Direction) (t : U16)
  /-- `ESTIMATE(ts, ec, K)`, internal (41_speed_estimator.md R77) -/
  | estimate (ts ec k : U32)
  /-- `PIDSTEP(target, measured)`, internal (42_pid.md R85) -/
  | pidstep (target measured : U32)
  deriving DecidableEq, Repr

end Sys2Proof
end

