-- ==== Sys2Proof/Decode.lean ====
section
/-! DEFINITION. Decoding a port word to an operation, and encoding an operation as a port word (30_encoding.md R50 to
R63). Every command word decodes; a low `tick` pin is rejected by name; an internal operation has no word. -/

namespace Sys2Proof

/-- The direction a `dir` bit stands for: 0 Clockwise, 1 CounterClockwise (30_encoding.md R51). -/
def Direction.ofBit (b : BitVec 1) : Direction := if b = 1#1 then .ccw else .cw

/-- The bit of a direction (30_encoding.md R51). -/
def Direction.bit : Direction → BitVec 1
  | .cw => 0#1
  | .ccw => 1#1

/-- The opcode field `cmd[99:96]` (30_encoding.md R55). -/
def opField (c : CommandWord) : BitVec 4 := c.extractLsb' 96 4

/-- The command a word stands for (30_encoding.md R55 to R61). The payload of `NOP` and of a reserved opcode and the
bits `cmd[95:34]` of `STEP` are ignored. -/
def decodeCommand (c : CommandWord) : Instr :=
  match (opField c).toNat with
  | 0 => .nop
  | 1 => .init (c.extractLsb' 64 32) (c.extractLsb' 32 32) (c.extractLsb' 0 32)
  | 2 => .retune (c.extractLsb' 64 32) (c.extractLsb' 32 32) (c.extractLsb' 0 32)
  | 3 => .step (c.extractLsb' 0 32) (Direction.ofBit (c.extractLsb' 32 1)) (c.extractLsb' 33 1 = 1#1)
  | 4 => .force (c.extractLsb' 0 16) (c.extractLsb' 16 16) (c.extractLsb' 32 16) (c.extractLsb' 48 16)
      (c.extractLsb' 64 16) (c.extractLsb' 80 16)
  | 5 => .reserved5
  | 6 | 7 => .reserved67 (opField c)
  | _ => .reserved8F (opField c)

/-- Why a port word is no operation. -/
inductive DecodeError where
  /-- `tick = 0`: no `TICK` happens in this cycle (30_encoding.md R47). -/
  | tickLow
  deriving DecidableEq, Repr

/-- The operation a port word asks for. Whether `HALL h` is an event is the edge detector's question, not the
decoder's: it depends on `HALLPREV` (30_encoding.md R62, 43_dispatcher.md R104). -/
def decode : PortWord → Except DecodeError Instr
  | .tickPin level => if level = 1#1 then .ok .tick else .error .tickLow
  | .hallPins h => .ok (.hall h)
  | .command c => .ok (decodeCommand c)

/-- The word of a format G command (30_encoding.md R56). -/
def encodeGains (op : BitVec 4) (kp ki kd : Gain) : CommandWord := op ++ kp ++ ki ++ kd

/-- The word of `STEP`, its reserved bits zero (30_encoding.md R57). -/
def encodeStep (target : U32) (dir : Direction) (en : Bool) : CommandWord :=
  3#4 ++ 0#62 ++ BitVec.ofBool en ++ dir.bit ++ target

/-- The word of `FORCE` (30_encoding.md R58). -/
def encodeForce (d0 d1 d2 d3 d4 d5 : U16) : CommandWord := 4#4 ++ d5 ++ d4 ++ d3 ++ d2 ++ d1 ++ d0

/-- A word whose payload is ignored, written with zeros (30_encoding.md R59, R61). -/
def encodeNone (op : BitVec 4) : CommandWord := op ++ 0#96

/-- The port word of an operation; the internal operations have none (30_encoding.md R62). -/
def encode : Instr → Option PortWord
  | .nop => some (.command (encodeNone 0#4))
  | .init kp ki kd => some (.command (encodeGains 1#4 kp ki kd))
  | .retune kp ki kd => some (.command (encodeGains 2#4 kp ki kd))
  | .step target dir en => some (.command (encodeStep target dir en))
  | .force d0 d1 d2 d3 d4 d5 => some (.command (encodeForce d0 d1 d2 d3 d4 d5))
  | .reserved5 => some (.command (encodeNone 5#4))
  | .reserved67 op => some (.command (encodeNone op))
  | .reserved8F op => some (.command (encodeNone op))
  | .tick => some (.tickPin 1#1)
  | .hall h => some (.hallPins h)
  | .drive _ _ _ => none
  | .estimate _ _ _ => none
  | .pidstep _ _ => none

/-- The name of an instruction's row in spec/opcode_table.json. -/
def Instr.mnemonic : Instr → String
  | .nop => "NOP"
  | .init _ _ _ => "INIT"
  | .retune _ _ _ => "RETUNE"
  | .step _ _ _ => "STEP"
  | .force _ _ _ _ _ _ => "FORCE"
  | .reserved5 => "RESERVED_5"
  | .reserved67 _ => "RESERVED_6_7"
  | .reserved8F _ => "RESERVED_8_F"
  | .tick => "TICK"
  | .hall _ => "HALL"
  | .drive _ _ _ => "DRIVE"
  | .estimate _ _ _ => "ESTIMATE"
  | .pidstep _ _ => "PIDSTEP"

/-- One row of the opcode map: the words it covers are those equal to `value` under `mask` (30_encoding.md R60). -/
structure OpcodeRow where
  mnemonic : String
  value : CommandWord
  mask : CommandWord
  deriving DecidableEq, Repr

/-- The match and mask pairs of 30_encoding.md R60, in its order. -/
def opcodeRows : List OpcodeRow :=
  [⟨"NOP", 0x0000000000000000000000000#100, 0xF000000000000000000000000#100⟩,
   ⟨"INIT", 0x1000000000000000000000000#100, 0xF000000000000000000000000#100⟩,
   ⟨"RETUNE", 0x2000000000000000000000000#100, 0xF000000000000000000000000#100⟩,
   ⟨"STEP", 0x3000000000000000000000000#100, 0xF000000000000000000000000#100⟩,
   ⟨"FORCE", 0x4000000000000000000000000#100, 0xF000000000000000000000000#100⟩,
   ⟨"RESERVED_5", 0x5000000000000000000000000#100, 0xF000000000000000000000000#100⟩,
   ⟨"RESERVED_6_7", 0x6000000000000000000000000#100, 0xE000000000000000000000000#100⟩,
   ⟨"RESERVED_8_F", 0x8000000000000000000000000#100, 0x8000000000000000000000000#100⟩]

/-- The row covers the word. -/
def OpcodeRow.covers (row : OpcodeRow) (c : CommandWord) : Bool := c &&& row.mask = row.value

/-- Where the bits of a table row stand (log 9). Up to eight bits are pins: one bit is the `tick` pin, three bits are
the `hall_in` pins, and for any other such width the word 1 is a high `tick` pin and any other word below 8 is a Hall
pattern. More bits are a command word, bits it lacks zero; a bit above `cmd[99]` has no port. -/
def portWordOf (nbits w : Nat) : Option PortWord :=
  if nbits = 0 then none
  else if nbits = 1 then (if w < 2 then some (.tickPin (BitVec.ofNat 1 w)) else none)
  else if nbits = 3 then (if w < 8 then some (.hallPins (BitVec.ofNat 3 w)) else none)
  else if nbits ≤ 8 then
    (if w = 1 then some (.tickPin 1#1) else if w < 8 then some (.hallPins (BitVec.ofNat 3 w)) else none)
  else (if w < 2 ^ 100 then some (.command (BitVec.ofNat 100 w)) else none)

/-- What the decoder reads from a word of spec/opcode_table.json. -/
def decodeTableWord (nbits w : Nat) : Option Instr :=
  match portWordOf nbits w with
  | some p =>
    match decode p with
    | .ok i => some i
    | .error _ => none
  | none => none

end Sys2Proof
end

