-- ==== Sys2Proof/Config.lean ====
section
/-! DEFINITION. The configuration `cfg` (00_scope.md R8) as plain data, and the model's two free values: the
open constants a core was built with and the pins the outside world presents. -/

namespace Sys2Proof

/-- One entry of the commutation table: the phase whose high side is driven and the phase whose low side is driven
(40_commutation.md R67). -/
structure PhasePair where
  hi : Phase
  lo : Phase
  deriving DecidableEq, Repr, Inhabited

/-- The six entries of the commutation table for one direction, `h = 1 .. 6`. -/
structure SectorTable where
  s1 : PhasePair
  s2 : PhasePair
  s3 : PhasePair
  s4 : PhasePair
  s5 : PhasePair
  s6 : PhasePair
  deriving DecidableEq, Repr, Inhabited

/-- `COMM_TABLE`: twelve entries, six for each direction (40_commutation.md R67). -/
structure CommTable where
  cw : SectorTable
  ccw : SectorTable
  deriving DecidableEq, Repr, Inhabited

/-- The constants of 00_scope.md R8 for which the spec fixes no value: its value column says "OPEN", or that D0 does
not give the entries (`COMM_TABLE`, 40_commutation.md R68). The types hold the ranges of R8 but for `1 ≤ MAX_DUTY`,
which `Config.wf` checks: a field the rule makes at least 1 is a positive natural, a field it bounds by `2^32 − 1` is a
32-bit word (log 14). -/
structure OpenConstants where
  maxDuty : U16
  clockConstant : U32
  integralMax : U32
  outputMax : U32
  outputToTorqueScale : ℕ+
  commTable : CommTable
  deriving DecidableEq, Repr, Inhabited

/-- The configuration of 00_scope.md R8: the open constants, and the three to which R8 gives a value. A rule is stated
for every configuration in range (R10), so these three are fields as well. -/
structure Config extends OpenConstants where
  dtNum : ℕ+
  dtDen : ℕ+
  gainFrac : Nat
  deriving DecidableEq, Repr, Inhabited

/-- FREE VALUE: the open constants this core was built with (00_scope.md R8, "OPEN": the spec fixes no value; log 1). -/
opaque Config.builtOpen : OpenConstants

/-- The configuration this core was built with: `DT_NUM = 1`, `DT_DEN = 1000` and `GAIN_FRAC = 16` as 00_scope.md R8
gives them (92_eei_decisions.md D15, D16), the open constants free. -/
def Config.built : Config := { Config.builtOpen with dtNum := 1, dtDen := 1000, gainFrac := 16 }

/-- FREE VALUE: the pins in the `n`-th clock cycle when none are placed in `State.inputs`: "The environment and the
host may present any inputs at any cycle" (70_reset_and_hazards.md R174; log 2). -/
opaque Config.freePins : Nat → Pins

end Sys2Proof
end

