-- ==== Sys2Proof/Machine/State.lean ====
section
/-! DEFINITION. The state of the PMSM core as plain data (10_state.md), the two ways a step could stop, and the state
right after reset. -/

namespace Sys2Proof.Machine

/-- The registers of 10_state.md R15, all 446 bits and nothing else, one field per row of its table. -/
structure Regs where
  timer : U32
  tickSum : U32
  evCnt : U32
  speed : U32
  /-- s33: read it with `toInt` -/
  perr : S33
  integ : U32
  out : U32
  torque : U16
  kp : Gain
  ki : Gain
  kd : Gain
  dir : Direction
  ready : Bool
  secinv : Bool
  sati : Bool
  sato : Bool
  /-- the code of the estimator's last verdict (R20) -/
  est : BitVec 2
  duty : DutyVec
  /-- `IND[i]` is bit `i` (R26) -/
  ind : BitVec 3
  hallprev : Hall
  deriving DecidableEq, Repr

/-- The estimator's verdicts (41_speed_estimator.md R77). -/
inductive Verdict where
  | ok
  | stalled
  | zeroInterval
  deriving DecidableEq, Repr

/-- The result of `DRIVE`: a duty vector, an indicator vector and the invalid-sector bit (40_commutation.md R69). -/
structure DriveResult where
  duty : DutyVec
  ind : BitVec 3
  inv : Bool
  deriving DecidableEq, Repr

/-- The result of `ESTIMATE`: a verdict and a speed (41_speed_estimator.md R77). -/
structure Estimate where
  verdict : Verdict
  speed : U32
  deriving DecidableEq, Repr

/-- A telemetry record `(measuredSpeed, rawOutput)` (60_exceptions.md R150). -/
structure Telemetry where
  speed : U32
  out : U32
  deriving DecidableEq, Repr

/-- The machine: the registers, the configuration they run under, the outputs that are no registers, and what the
outside world will present. -/
structure State where
  /-- the configuration, never written (00_scope.md R8, R29 of 10_state.md; log 1) -/
  cfg : Config
  /-- the spec's whole state (R15) -/
  regs : Regs
  /-- MODEL: the result wires of the most recent `DRIVE` (log 7) -/
  ce : DriveResult
  /-- MODEL: the result wires of the most recent `ESTIMATE` (log 7) -/
  se : Estimate
  /-- the port `cmd_err` in the cycle just executed (30_encoding.md R61; log 11) -/
  cmdErr : Bool
  /-- the telemetry port in the cycle just executed: a record when `tlm_valid = 1` (60_exceptions.md R150; log 11) -/
  tlm : Option Telemetry
  /-- the records emitted so far, oldest first (R150) -/
  telemetry : List Telemetry
  /-- MODEL: the pins of the coming cycles, next one first (log 2) -/
  inputs : List Pins
  /-- MODEL: the clock edges so far, the index of the free pins (log 2) -/
  cycle : Nat
  deriving DecidableEq, Repr

/-- The faults of the machine: there are none. "A model therefore has no fault outcome for any operation of the core:
every operation is total" (60_exceptions.md R136). Safe: nothing is stopped. -/
inductive Fault where
  deriving DecidableEq, Repr

/-- Why a step has no meaning. -/
inductive Refusal where
  /-- Raised by an arm of `exec` whose instruction has no meaning yet; no arm of this model does. Safe. -/
  | notModelled (mnemonic : String)
  /-- Raised by `PIDSTEP`, and by the `STEP` that invokes it, when the torque quotient exceeds 65535, which takes a
  configuration that is not well-formed: "the spec defines nothing: a model refuses such a configuration"
  (42_pid.md R95, 93_implementation_defined.md I8; log 8). Safe: the model stops where the spec says nothing. -/
  | torqueQuotientTooWide
  deriving DecidableEq, Repr

/-- All switches off. -/
def dutyOff : DutyVec := ⟨0, 0, 0, 0, 0, 0⟩

/-- The registers after reset (10_state.md R30): all zero, but `HALLPREV`, which takes the live `hall_in`. -/
def Regs.reset (hallIn : Hall) : Regs where
  timer := 0
  tickSum := 0
  evCnt := 0
  speed := 0
  perr := 0
  integ := 0
  out := 0
  torque := 0
  kp := 0
  ki := 0
  kd := 0
  dir := .cw
  ready := false
  secinv := false
  sati := false
  sato := false
  est := 0
  duty := dutyOff
  ind := 0
  hallprev := hallIn

/-- A core of configuration `cfg` right after a reset edge that saw `hallIn`, with no cycle presented yet. -/
def State.resetWith (cfg : Config) (hallIn : Hall) : State where
  cfg := cfg
  regs := Regs.reset hallIn
  ce := ⟨dutyOff, 0, false⟩
  se := ⟨.ok, 0⟩
  cmdErr := false
  tlm := none
  telemetry := []
  inputs := []
  cycle := 0

/-- The machine right after reset. The configuration is `Config.built`, its open constants free
(log 1); `HALLPREV` is 0, a choice, since the pins of the reset edge are not given (log 4, DESIGN CHOICE). -/
def State.reset : State := State.resetWith Config.built 0

end Sys2Proof.Machine
end

