-- ==== Sys2Proof/Machine/Flags.lean ====
section
/-! DEFINITION. The flags: the codes of `EST`, the saturation flags, the `status` word (10_state.md R20, R22) and the
six conditions with where each is recorded (60_exceptions.md R137). -/

namespace Sys2Proof.Machine

/-- The code of a verdict in `EST`: OK = 0, STALLED = 1, ZERO_INTERVAL = 2 (44_host_commands.md R122). -/
def verdictCode : Verdict → BitVec 2
  | .ok => 0
  | .stalled => 1
  | .zeroInterval => 2

/-- A saturation flag: set when the clamp changed the value (42_pid.md R96). -/
def saturated (before after : Int) : Bool := before ≠ after

/-- The output port `status`: `DIR`, `EST`, `SATO`, `SATI`, `SECINV`, `READY` from bit 6 down to bit 0
(10_state.md R22). -/
def statusWord (r : Regs) : BitVec 7 :=
  r.dir.bit ++ r.est ++ BitVec.ofBool r.sato ++ BitVec.ofBool r.sati ++ BitVec.ofBool r.secinv
    ++ BitVec.ofBool r.ready

/-- The six conditions (60_exceptions.md R137). -/
inductive Condition where
  | stalledMotor
  | zeroInterval
  | invalidSector
  | integralSaturated
  | outputSaturated
  | reservedOpcode
  deriving DecidableEq, Repr

/-- Whether the state shows a condition: its flag, or the wire `cmd_err` of the cycle (60_exceptions.md R137, R138). -/
def conditionShown (s : State) : Condition → Bool
  | .stalledMotor => s.regs.est = 1#2
  | .zeroInterval => s.regs.est = 2#2
  | .invalidSector => s.regs.secinv
  | .integralSaturated => s.regs.sati
  | .outputSaturated => s.regs.sato
  | .reservedOpcode => s.cmdErr

end Sys2Proof.Machine
end

