-- ==== Sys2Proof/Machine/Operands.lean ====
section
/-! DEFINITION. How operands are read (30_encoding.md R50 to R54), the arithmetic primitives (00_scope.md R13), the
duty vector by phase (10_state.md R25) and the commutation table (40_commutation.md R66, R67). -/

namespace Sys2Proof.Machine

/-- A gain as the signed integer of its two's complement (30_encoding.md R54). -/
def gainValue (g : Gain) : Int := g.toInt

/-- A u32 as an exact integer (R53). -/
def u32Value (v : U32) : Int := (v.toNat : Int)

/-- The previous error as the signed integer of its 33 bits (10_state.md R17). -/
def errorValue (e : S33) : Int := e.toInt

/-- `floor(p / q)` for `q > 0` (00_scope.md R13). -/
def floorDiv (p q : Int) : Int := p / q

/-- `clamp(x, lo, hi)` (00_scope.md R13). -/
def clamp (x lo hi : Int) : Int := if x < lo then lo else if hi < x then hi else x

/-- The sector of a Hall pattern; none for the invalid patterns 0 and 7 (40_commutation.md R66). -/
def sectorOf (h : Hall) : Option Sector :=
  match h.toNat with
  | 1 => some .s1
  | 2 => some .s2
  | 3 => some .s3
  | 4 => some .s4
  | 5 => some .s5
  | 6 => some .s6
  | _ => none

/-- The entry of one direction's table for a sector. -/
def sectorEntry (t : SectorTable) : Sector → PhasePair
  | .s1 => t.s1
  | .s2 => t.s2
  | .s3 => t.s3
  | .s4 => t.s4
  | .s5 => t.s5
  | .s6 => t.s6

/-- `COMM_TABLE(d, h)` (40_commutation.md R67). -/
def commEntry (t : CommTable) (d : Direction) (s : Sector) : PhasePair :=
  match d with
  | .cw => sectorEntry t.cw s
  | .ccw => sectorEntry t.ccw s

/-- `DUTY[2p]`, the high side of phase `p` (10_state.md R25). -/
def highSide (v : DutyVec) : Phase → U16
  | .a => v.ah
  | .b => v.bh
  | .c => v.ch

/-- `DUTY[2p + 1]`, the low side of phase `p` (10_state.md R25). -/
def lowSide (v : DutyVec) : Phase → U16
  | .a => v.al
  | .b => v.bl
  | .c => v.cl

/-- `duty[2p] := t` (40_commutation.md R69). -/
def setHighSide (v : DutyVec) (p : Phase) (t : U16) : DutyVec :=
  match p with
  | .a => { v with ah := t }
  | .b => { v with bh := t }
  | .c => { v with ch := t }

/-- `duty[2p + 1] := t` (40_commutation.md R69). -/
def setLowSide (v : DutyVec) (p : Phase) (t : U16) : DutyVec :=
  match p with
  | .a => { v with al := t }
  | .b => { v with bl := t }
  | .c => { v with cl := t }

end Sys2Proof.Machine
end

