-- ==== Sys2Proof/Machine/Ops.lean ====
section
/-! DEFINITION. The named updates of the machine, each used by one or more operations. The core has no memory, so every
update is of registers, of an output or of the model's own wires. There is no exception entry or return to share: the
one interrupt is the `HALL` operation itself and nothing returns (60_exceptions.md R136, R142, R143). -/

namespace Sys2Proof.Machine

/-- Load the three gain registers (44_host_commands.md R120, R121). -/
def setGains (kp ki kd : Gain) (s : State) : State :=
  { s with regs := { s.regs with kp := kp, ki := ki, kd := kd } }

/-- `TIMER <- (TIMER + 1) mod 2^32` (43_dispatcher.md R107). -/
def countTick (s : State) : State := { s with regs := { s.regs with timer := s.regs.timer + 1 } }

/-- Capture the interval: `TICKSUM <- TICKSUM + TIMER`, `EVCNT <- EVCNT + 1`, `TIMER <- 0`, `READY <- 1`, both sums
modulo 2^32 (43_dispatcher.md R111, R112). -/
def captureInterval (s : State) : State :=
  { s with regs := { s.regs with
      tickSum := s.regs.tickSum + s.regs.timer
      evCnt := s.regs.evCnt + 1
      timer := 0
      ready := true } }

/-- Put the result of a `DRIVE` on the engine's result wires (40_commutation.md R69; log 7). -/
def setDriveWires (d : DriveResult) (s : State) : State := { s with ce := d }

/-- Copy the engine's result wires to `DUTY`, `IND` and `SECINV` (43_dispatcher.md R111). -/
def latchDrive (s : State) : State :=
  { s with regs := { s.regs with duty := s.ce.duty, ind := s.ce.ind, secinv := s.ce.inv } }

/-- `HALLPREV <- h` (43_dispatcher.md R105). -/
def setHallPrev (h : Hall) (s : State) : State := { s with regs := { s.regs with hallprev := h } }

/-- Write all six duty registers together (45_pwm_arbiter.md R130). -/
def writeDuty (d : DutyVec) (s : State) : State := { s with regs := { s.regs with duty := d } }

/-- `DIR <- dir` (44_host_commands.md R124). -/
def setDir (d : Direction) (s : State) : State := { s with regs := { s.regs with dir := d } }

/-- The clearing half of the consume: `TICKSUM <- 0; EVCNT <- 0; READY <- 0` (20_memory.md R43). -/
def clearMeasurement (s : State) : State :=
  { s with regs := { s.regs with tickSum := 0, evCnt := 0, ready := false } }

/-- Put the result of an `ESTIMATE` on the estimator's result wires (41_speed_estimator.md R77; log 7). -/
def setEstimateWires (e : Estimate) (s : State) : State := { s with se := e }

/-- `EST <- code(v); SPEED <- s` from the estimator's result wires (44_host_commands.md R122). -/
def latchEstimate (s : State) : State :=
  { s with regs := { s.regs with est := verdictCode s.se.verdict, speed := s.se.speed } }

/-- Emit the record `(SPEED, OUT)`: it stands on the port in this cycle and is appended to the records
(44_host_commands.md R127, 60_exceptions.md R150). -/
def emitTelemetry (s : State) : State :=
  { s with
    tlm := some ⟨s.regs.speed, s.regs.out⟩
    telemetry := s.telemetry ++ [⟨s.regs.speed, s.regs.out⟩] }

/-- Drive `cmd_err = 1` for this cycle (30_encoding.md R61). -/
def raiseCmdErr (s : State) : State := { s with cmdErr := true }

/-- What a rising edge with `rst = 1` leaves: every register at its reset value, `HALLPREV` at the live `hall_in`,
`tlm_valid = 0`, `cmd_err = 0` (70_reset_and_hazards.md R154). -/
def resetEdge (hallIn : Hall) (s : State) : State :=
  { s with regs := Regs.reset hallIn, cmdErr := false, tlm := none }

/-- Run the second part on the state the first part leaves; a stop of the first part is the stop of the whole. -/
def andThen (o : Host.Outcome State Fault Refusal) (f : State → Host.Outcome State Fault Refusal) :
    Host.Outcome State Fault Refusal :=
  match o with
  | .next s => f s
  | .fault r => .fault r
  | .refused r => .refused r

end Sys2Proof.Machine
end

