-- ==== Sys2Proof/Machine/Arbiter.lean ====
section
/-! DEFINITION. The PWM duty-cycle arbiter: `FORCE` (45_pwm_arbiter.md). The last writer of the six duty registers wins
(R134), so there is no arbitration state. -/

namespace Sys2Proof.Machine

/-- `FORCE`: the six operands to the six duty registers, verbatim (45_pwm_arbiter.md R131, R132). -/
def execForce (d0 d1 d2 d3 d4 d5 : U16) (s : State) : Host.Outcome State Fault Refusal :=
  .next (writeDuty ⟨d0, d1, d2, d3, d4, d5⟩ s)

end Sys2Proof.Machine
end

