-- ==== Sys2Proof/Machine/Estimator.lean ====
section
/-! DEFINITION. The Speed Estimator: `ESTIMATE` (41_speed_estimator.md). -/

namespace Sys2Proof.Machine

/-- `ESTIMATE(ts, ec, K)` (41_speed_estimator.md R77): `K div (ts div ec)`, both divisions truncating and the inner one
first (R78), with both zero divisors intercepted (R79, R80). -/
def estimateResult (ts ec k : U32) : Estimate :=
  if ec = 0 then ⟨.stalled, 0⟩
  else if ts / ec = 0 then ⟨.zeroInterval, 0⟩
  else ⟨.ok, k / (ts / ec)⟩

/-- `ESTIMATE` as an operation: its result stands on the estimator's result wires; it writes no register of its own
(41_speed_estimator.md R77; log 7). -/
def execEstimate (ts ec k : U32) (s : State) : Host.Outcome State Fault Refusal :=
  .next (setEstimateWires (estimateResult ts ec k) s)

end Sys2Proof.Machine
end

