-- ==== Sys2Proof/Machine/Pid.lean ====
section
/-! DEFINITION. The PID Speed Controller: `PIDSTEP` (42_pid.md), the eight steps in the spec's order over exact
integers. -/

namespace Sys2Proof.Machine

/-- Step 1: `error = target − measured`, exact (42_pid.md R87). -/
def pidError (target measured : U32) : Int := u32Value target - u32Value measured

/-- Step 2: `deriv = previousError − error` (42_pid.md R88). -/
def pidDerivative (pe error : Int) : Int := pe - error

/-- Step 3: `I1 = INTEG + previousError` (42_pid.md R89). -/
def pidIntegralSum (integ : U32) (pe : Int) : Int := u32Value integ + pe

/-- Step 4: `I2 = clamp(I1, 0, INTEGRAL_MAX)` (42_pid.md R90). -/
def pidIntegral (cfg : Config) (i1 : Int) : Int := clamp i1 0 (u32Value cfg.integralMax)

/-- Step 5, the numerator `N` (42_pid.md R85, R91). -/
def pidNumerator (cfg : Config) (kp ki kd pe i2 deriv : Int) : Int :=
  kp * pe * (cfg.dtNum : Nat) * (cfg.dtDen : Nat)
    + ki * i2 * (cfg.dtNum : Nat) * (cfg.dtNum : Nat)
    + kd * deriv * (cfg.dtDen : Nat) * (cfg.dtDen : Nat)

/-- Step 5, the denominator `D` (42_pid.md R85, R91). -/
def pidDenominator (cfg : Config) : Int := 2 ^ cfg.gainFrac * (cfg.dtNum : Nat) * (cfg.dtDen : Nat)

/-- Step 6: `out = clamp(raw, 0, OUTPUT_MAX)` (42_pid.md R93). -/
def pidOutput (cfg : Config) (raw : Int) : Int := clamp raw 0 (u32Value cfg.outputMax)

/-- Step 8: `out div OUTPUT_TO_TORQUE_SCALE` (42_pid.md R95). -/
def pidTorque (cfg : Config) (out : Int) : Nat := out.toNat / (cfg.outputToTorqueScale : Nat)

/-- The intermediate values of one `PIDSTEP` (42_pid.md R85). -/
structure PidValues where
  error : Int
  i1 : Int
  i2 : Int
  raw : Int
  out : Int
  deriving DecidableEq, Repr

/-- The values steps 1 to 6 compute from the registers before the step (42_pid.md R85). -/
def pidValues (cfg : Config) (r : Regs) (target measured : U32) : PidValues :=
  let pe := errorValue r.perr
  let error := pidError target measured
  let i1 := pidIntegralSum r.integ pe
  let i2 := pidIntegral cfg i1
  let n := pidNumerator cfg (gainValue r.kp) (gainValue r.ki) (gainValue r.kd) pe i2 (pidDerivative pe error)
  let raw := floorDiv n (pidDenominator cfg)
  ⟨error, i1, i2, raw, pidOutput cfg raw⟩

/-- Step 7 and the writes of the step (42_pid.md R85, R94, R96). -/
def writePid (v : PidValues) (torque : Nat) (s : State) : State :=
  { s with regs := { s.regs with
      perr := BitVec.ofInt 33 v.error
      integ := BitVec.ofInt 32 v.i2
      out := BitVec.ofInt 32 v.out
      torque := BitVec.ofNat 16 torque
      sati := saturated v.i1 v.i2
      sato := saturated v.raw v.out } }

/-- `PIDSTEP(target, measured)` (42_pid.md R85). A quotient above 65535, which only a configuration that is not
well-formed can give, has no meaning in the spec and is refused (R95; log 8). -/
def pidStep (target measured : U32) (s : State) : Host.Outcome State Fault Refusal :=
  let v := pidValues s.cfg s.regs target measured
  let torque := pidTorque s.cfg v.out
  if torque ≤ 65535 then .next (writePid v torque s) else .refused .torqueQuotientTooWide

/-- `PIDSTEP` as an operation. -/
def execPidstep (target measured : U32) (s : State) : Host.Outcome State Fault Refusal :=
  pidStep target measured s

end Sys2Proof.Machine
end

