-- ==== Sys2Proof/Machine/Commands.lean ====
section
/-! DEFINITION. The host commands `NOP`, `INIT`, `RETUNE`, `STEP` and the reserved opcodes (44_host_commands.md). -/

namespace Sys2Proof.Machine

/-- `NOP`: nothing (44_host_commands.md R119). -/
def execNop (s : State) : Host.Outcome State Fault Refusal := .next s

/-- `INIT`: every register but `HALLPREV` to its reset value, then the gains (44_host_commands.md R120,
10_state.md R30). -/
def execInit (kp ki kd : Gain) (s : State) : Host.Outcome State Fault Refusal :=
  .next (setGains kp ki kd { s with regs := Regs.reset s.regs.hallprev })

/-- `RETUNE`: the gains and nothing else (44_host_commands.md R121). -/
def execRetune (kp ki kd : Gain) (s : State) : Host.Outcome State Fault Refusal := .next (setGains kp ki kd s)

/-- The consume of `STEP` up to the estimator's verdict: snapshot and clear the accumulators, `ESTIMATE`, record
verdict and speed (44_host_commands.md R122, 20_memory.md R43). -/
def takeMeasurement (s : State) : State :=
  latchEstimate (setEstimateWires
    (estimateResult s.regs.tickSum s.regs.evCnt s.cfg.clockConstant) (clearMeasurement s))

/-- The controller's part of a consume: `PIDSTEP` on a valid measurement, skipped on an invalid one
(44_host_commands.md R122, R126). -/
def controlUpdate (target : U32) (s : State) : Host.Outcome State Fault Refusal :=
  match s.se.verdict with
  | .ok => pidStep target s.se.speed s
  | .stalled => .next s
  | .zeroInterval => .next s

/-- A `STEP` that finds a measurement pending: consume, control, emit one record (44_host_commands.md R122, R127). -/
def consume (target : U32) (s : State) : Host.Outcome State Fault Refusal :=
  andThen (controlUpdate target (takeMeasurement s)) fun t => .next (emitTelemetry t)

/-- `STEP target, dir, en`, the control tick (44_host_commands.md R122 to R128). -/
def execStep (target : U32) (dir : Direction) (en : Bool) (s : State) : Host.Outcome State Fault Refusal :=
  if en then
    if s.regs.ready then consume target (setDir dir s) else .next (setDir dir s)
  else .next s

/-- Opcode 5: no operation, `cmd_err = 1` (30_encoding.md R61, 44_host_commands.md R129). -/
def execReserved5 (s : State) : Host.Outcome State Fault Refusal := .next (raiseCmdErr s)

/-- Opcodes 6 and 7: no operation, `cmd_err = 1` (30_encoding.md R61, 44_host_commands.md R129). -/
def execReserved67 (s : State) : Host.Outcome State Fault Refusal := .next (raiseCmdErr s)

/-- Opcodes 8 to 15: no operation, `cmd_err = 1` (30_encoding.md R61, 44_host_commands.md R129). -/
def execReserved8F (s : State) : Host.Outcome State Fault Refusal := .next (raiseCmdErr s)

end Sys2Proof.Machine
end

