-- ==== Sys2Proof/Machine/Commutation.lean ====
section
/-! DEFINITION. The Commutation Engine: `DRIVE` (40_commutation.md). -/

namespace Sys2Proof.Machine

/-- `DRIVE(h, d, t)` (40_commutation.md R69): the two driven switches of a valid sector get `t`, all others 0 (R70); an
invalid sector switches everything off and sets `inv` (R71); the indicators are the raw pattern (R72); nothing is
clamped (R73). -/
def driveResult (table : CommTable) (h : Hall) (d : Direction) (t : U16) : DriveResult :=
  match sectorOf h with
  | some sec =>
    ⟨setLowSide (setHighSide dutyOff (commEntry table d sec).hi t) (commEntry table d sec).lo t, h, false⟩
  | none => ⟨dutyOff, h, true⟩

/-- `DRIVE` as an operation: its result stands on the engine's result wires; it writes no register of its own
(40_commutation.md R69; log 7). -/
def execDrive (h : Hall) (d : Direction) (t : U16) (s : State) : Host.Outcome State Fault Refusal :=
  .next (setDriveWires (driveResult s.cfg.commTable h d t) s)

end Sys2Proof.Machine
end

