-- ==== Sys2Proof/Machine/Dispatcher.lean ====
section
/-! DEFINITION. The Event Dispatcher: `TICK` and `HALL` (43_dispatcher.md). -/

namespace Sys2Proof.Machine

/-- `TICK` (43_dispatcher.md R107, R108). -/
def execTick (s : State) : Host.Outcome State Fault Refusal := .next (countTick s)

/-- The `HALL` event, which is the whole of taking the Hall interrupt (43_dispatcher.md R111, 60_exceptions.md R142):
capture the interval, let the Commutation Engine drive with the commanded torque and direction, latch its result. -/
def hallEvent (h : Hall) (s : State) : State :=
  setHallPrev h (latchDrive
    (setDriveWires (driveResult s.cfg.commTable h s.regs.dir s.regs.torque) (captureInterval s)))

/-- `HALL h`: the event happens exactly when `h` differs from `HALLPREV` (43_dispatcher.md R104, R111; log 6). -/
def execHall (h : Hall) (s : State) : Host.Outcome State Fault Refusal :=
  if h = s.regs.hallprev then .next s else .next (hallEvent h s)

end Sys2Proof.Machine
end

