-- ==== Sys2Proof/Machine/Dispatch.lean ====
section
/-! DEFINITION. What each instruction does: one arm per constructor of `Instr`. -/

namespace Sys2Proof.Machine

def exec (i : Instr) (s : State) : Host.Outcome State Fault Refusal :=
  match i with
  | .nop => Sys2Proof.Machine.execNop s
  | .init kp ki kd => Sys2Proof.Machine.execInit kp ki kd s
  | .retune kp ki kd => Sys2Proof.Machine.execRetune kp ki kd s
  | .step target dir en => Sys2Proof.Machine.execStep target dir en s
  | .force d0 d1 d2 d3 d4 d5 => Sys2Proof.Machine.execForce d0 d1 d2 d3 d4 d5 s
  | .reserved5 => Sys2Proof.Machine.execReserved5 s
  | .reserved67 _ => Sys2Proof.Machine.execReserved67 s
  | .reserved8F _ => Sys2Proof.Machine.execReserved8F s
  | .tick => Sys2Proof.Machine.execTick s
  | .hall h => Sys2Proof.Machine.execHall h s
  | .drive h d t => Sys2Proof.Machine.execDrive h d t s
  | .estimate ts ec k => Sys2Proof.Machine.execEstimate ts ec k s
  | .pidstep target measured => Sys2Proof.Machine.execPidstep target measured s

end Sys2Proof.Machine
end

