-- ==== Sys2Proof/Machine/Cycle.lean ====
section
/-! DEFINITION. One clock cycle (30_encoding.md R48, 43_dispatcher.md R115): which pins it sees, which operations they
ask for and in which order, and how a word is presented to the next cycle. -/

namespace Sys2Proof.Machine

/-- The pins of this cycle: the next ones placed, or, when none are placed, the free pins of this cycle (log 2). -/
def pinsNow (s : State) : Pins :=
  match s.inputs with
  | p :: _ => p
  | [] => Config.freePins s.cycle

/-- The clock edge comes: the pins are taken, and the outputs of the cycle before are over (30_encoding.md R46:
`cmd_err` and the telemetry port are functions of one cycle; log 11). -/
def beginCycle (s : State) : State :=
  { s with inputs := s.inputs.tail, cycle := s.cycle + 1, cmdErr := false, tlm := none }

/-- The words on the ports in the order their operations happen: `tick`, `hall_in`, then the command word if
`cmd_valid = 1` (30_encoding.md R49, 43_dispatcher.md R115). -/
def portWords (p : Pins) : List PortWord :=
  .tickPin (BitVec.ofBool p.tick) :: .hallPins p.hallIn ::
    if p.cmdValid then [.command p.cmd] else []

/-- The operations some port words ask for; a word that is no operation asks for nothing. -/
def operationsOf : List PortWord → List Instr
  | [] => []
  | w :: rest =>
    match decode w with
    | .ok i => i :: operationsOf rest
    | .error .tickLow => operationsOf rest

/-- The operations of a cycle, in order. -/
def cycleOperations (p : Pins) : List Instr := operationsOf (portWords p)

/-- Run operations one after the other, each on the state the one before left (20_memory.md R39). -/
def runAll : List Instr → State → Host.Outcome State Fault Refusal
  | [], s => .next s
  | i :: rest, s => andThen (exec i s) (runAll rest)

/-- One rising clock edge. With `rst = 1` the registers take their reset values and no operation happens
(70_reset_and_hazards.md R154); otherwise the operations run in order and `HALLPREV` takes `hall_in`
(43_dispatcher.md R105, R115). -/
def clockEdge (p : Pins) (s : State) : Host.Outcome State Fault Refusal :=
  if p.rst then .next (resetEdge p.hallIn s)
  else andThen (runAll (cycleOperations p) s) fun t => .next (setHallPrev p.hallIn t)

/-- Pins on which nothing happens while the Hall inputs stay at `level`: the `IDLE` of 30_encoding.md R65. -/
def idlePins (level : Hall) : Pins := ⟨false, false, level, false, 0⟩

/-- The pins that present one port word and ask for nothing else while the Hall inputs stand at `level`. -/
def pinsPresenting (level : Hall) : PortWord → Pins
  | .tickPin b => { idlePins level with tick := b = 1#1 }
  | .hallPins h => { idlePins level with hallIn := h }
  | .command c => { idlePins level with cmdValid := true, cmd := c }

/-- The `HALLPREV` under which a port word is an event: a Hall pattern equal to `HALLPREV` would be none
(43_dispatcher.md R104), so then it starts from the pattern with sensor A flipped. -/
def levelBefore (level : Hall) : PortWord → Hall
  | .hallPins h => if h = level then h ^^^ 1#3 else level
  | .tickPin _ => level
  | .command _ => level

/-- Present one word of the opcode table to the next cycle; a word no port carries presents an idle cycle
(log 3, log 9). -/
def presentTableWord (s : State) (nbits w : Nat) : State :=
  match portWordOf nbits w with
  | some p =>
    let t := setHallPrev (levelBefore s.regs.hallprev p) s
    { t with inputs := pinsPresenting s.regs.hallprev p :: s.inputs }
  | none => { s with inputs := idlePins s.regs.hallprev :: s.inputs }

end Sys2Proof.Machine
end

