-- ==== Sys2Proof/Machine/Step.lean ====
section
/-! DEFINITION. One step of the machine is one clock cycle (70_reset_and_hazards.md R174). -/

namespace Sys2Proof.Machine

/-- One step: the next clock edge with this cycle's pins (43_dispatcher.md R115). -/
def step (s : State) : Host.Outcome State Fault Refusal := clockEdge (pinsNow s) (beginCycle s)

/-- The state whose next step runs the operation of one word of spec/opcode_table.json: the word stands on its port in
the next cycle and nothing else does (log 3). -/
def State.withFetchWord (s : State) (nbits w : Nat) : State := presentTableWord s nbits w

end Sys2Proof.Machine
end

