-- ==== Sys2Proof/Machine/Reference.lean ====
section
/-! DEFINITION. The default commutation table (40_commutation.md R68) and the reference configuration `REF`
(00_scope.md R11). No meaning uses them: they are the values the spec's own vectors are written for (log 1). -/

namespace Sys2Proof.Machine

/-- The default table of 40_commutation.md R68, Clockwise column. -/
def defaultCw : SectorTable :=
  ⟨⟨.a, .b⟩, ⟨.b, .c⟩, ⟨.a, .c⟩, ⟨.c, .a⟩, ⟨.c, .b⟩, ⟨.b, .a⟩⟩

/-- The default table of 40_commutation.md R68, CounterClockwise column. -/
def defaultCcw : SectorTable :=
  ⟨⟨.b, .a⟩, ⟨.c, .b⟩, ⟨.c, .a⟩, ⟨.a, .c⟩, ⟨.b, .c⟩, ⟨.a, .b⟩⟩

/-- The default `COMM_TABLE` (40_commutation.md R68). -/
def defaultTable : CommTable := ⟨defaultCw, defaultCcw⟩

/-- `REF` (00_scope.md R11). -/
def referenceConfig : Config where
  maxDuty := 1000
  clockConstant := 52500000
  integralMax := 1000
  outputMax := 10000
  outputToTorqueScale := 10
  dtNum := 1
  dtDen := 1000
  gainFrac := 16
  commTable := defaultTable

end Sys2Proof.Machine
end

