-- ==== Sys2Proof/Machine/Ports.lean ====
section
/-! DEFINITION. The output ports (30_encoding.md R46) as a view of the state, and the reference text of a telemetry
record (60_exceptions.md R151). -/

namespace Sys2Proof.Machine

/-- What the output ports show (30_encoding.md R46). The telemetry port is a record exactly when `tlm_valid = 1`;
`tlm_speed` and `tlm_out` are not meaningful otherwise (60_exceptions.md R150). -/
structure Ports where
  duty : DutyVec
  ind : BitVec 3
  status : BitVec 7
  torque : U16
  speed : U32
  out : U32
  cmdErr : Bool
  tlm : Option Telemetry
  deriving DecidableEq, Repr

/-- The output ports after a cycle. Reading them changes nothing (20_memory.md R35). -/
def State.ports (s : State) : Ports :=
  ⟨s.regs.duty, s.regs.ind, statusWord s.regs, s.regs.torque, s.regs.speed, s.regs.out, s.cmdErr, s.tlm⟩

/-- The ASCII digit of a number below 10. -/
def digitChar (n : Nat) : Byte := BitVec.ofNat 8 (0x30 + n)

/-- The decimal numeral of `n` in at most `fuel` digits, most significant first, without leading zeros. -/
def decimalDigits : Nat → Nat → List Byte
  | 0, _ => []
  | fuel + 1, n => if n < 10 then [digitChar n] else decimalDigits fuel (n / 10) ++ [digitChar (n % 10)]

/-- "The digits of" a u32: its unsigned decimal numeral, at most ten digits (60_exceptions.md R151). -/
def u32Digits (v : U32) : List Byte := decimalDigits 10 v.toNat

/-- The line `S: <measuredSpeed>, E: <rawOutput>` and carriage return, line feed (60_exceptions.md R151). -/
def telemetryLine (r : Telemetry) : List Byte :=
  [0x53#8, 0x3A#8, 0x20#8] ++ u32Digits r.speed ++ [0x2C#8, 0x20#8, 0x45#8, 0x3A#8, 0x20#8] ++ u32Digits r.out
    ++ [0x0D#8, 0x0A#8]

end Sys2Proof.Machine
end

