-- ==== Sys2Proof/WellFormed.lean ====
section
/-! DEFINITION. Well-formed instructions (the opcode of a reserved row lies in the row's range, 30_encoding.md R60)
and well-formed configurations (00_scope.md R10). -/

namespace Sys2Proof

/-- An instruction is well-formed when a reserved opcode lies in its row's range (30_encoding.md R60, R61); every
other operand may hold any value of its width (R50 to R54). -/
def Instr.wf : Instr → Bool
  | .reserved67 op => op = 6#4 || op = 7#4
  | .reserved8F op => 8 ≤ op.toNat
  | .nop | .init _ _ _ | .retune _ _ _ | .step _ _ _ | .force _ _ _ _ _ _ | .reserved5
  | .tick | .hall _ | .drive _ _ _ | .estimate _ _ _ | .pidstep _ _ => true

/-- `hi ≠ lo`, the one condition on an entry of the table (40_commutation.md R67). -/
def PhasePair.wf (p : PhasePair) : Bool := p.hi ≠ p.lo

/-- All six entries of one direction are well-formed. -/
def SectorTable.wf (t : SectorTable) : Bool :=
  t.s1.wf && t.s2.wf && t.s3.wf && t.s4.wf && t.s5.wf && t.s6.wf

/-- `hi ≠ lo` for all twelve arguments (40_commutation.md R67). -/
def CommTable.wf (t : CommTable) : Bool := t.cw.wf && t.ccw.wf

/-- Condition (a) of 00_scope.md R10, the ranges of R8. The field types give every range but this one. -/
def Config.inRange (c : Config) : Bool := 1 ≤ c.maxDuty.toNat

/-- Condition (b) of 00_scope.md R10: `floor(OUTPUT_MAX / OUTPUT_TO_TORQUE_SCALE) ≤ MAX_DUTY`. -/
def Config.torqueInRange (c : Config) : Bool :=
  c.outputMax.toNat / (c.outputToTorqueScale : Nat) ≤ c.maxDuty.toNat

/-- `WF(cfg)` (00_scope.md R10): (a) the ranges, (b) the torque range, (c) the table. -/
def Config.wf (c : Config) : Bool := c.inRange && c.torqueInRange && c.commTable.wf

end Sys2Proof
end

