-- ==== Sys2Proof/Safety.lean ====
section
/-! DEFINITION. The terms claims are stated in: the invariant of the registers, what a safe bridge is, what a cycle
carries, and the part of the state the report flags may touch. -/

namespace Sys2Proof.Machine

/-- The number of a sector's Hall pattern (40_commutation.md R66). -/
def sectorNumber : Sector → Nat
  | .s1 => 1
  | .s2 => 2
  | .s3 => 3
  | .s4 => 4
  | .s5 => 5
  | .s6 => 6

/-- The relations between registers that every step keeps. -/
structure State.Inv (s : State) : Prop where
  /-- legal values of `PERR` (10_state.md R17) -/
  perr_range : -(2 ^ 32 - 1) ≤ s.regs.perr.toInt ∧ s.regs.perr.toInt ≤ 2 ^ 32 - 1
  /-- legal values of `INTEG` (R17) -/
  integ_range : s.regs.integ.toNat ≤ s.cfg.integralMax.toNat
  /-- legal values of `OUT` (R17) -/
  out_range : s.regs.out.toNat ≤ s.cfg.outputMax.toNat
  /-- `TORQUE` is the scaled-down `OUT` (42_pid.md R95) -/
  torque_scaled : s.regs.torque.toNat = s.regs.out.toNat / (s.cfg.outputToTorqueScale : Nat)
  /-- `EST = 3` never occurs (R20) -/
  est_legal : s.regs.est ≠ 3#2
  /-- in Idle the accumulators are empty (43_dispatcher.md R113) -/
  idle_empty : s.regs.ready = false → s.regs.tickSum = 0 ∧ s.regs.evCnt = 0
  /-- an invalid measurement leaves speed 0 (44_host_commands.md R126) -/
  invalid_speed : s.regs.est ≠ 0#2 → s.regs.speed = 0
  /-- the largest speed is `CLOCK_CONSTANT` (41_speed_estimator.md R82) -/
  speed_range : s.regs.speed.toNat ≤ s.cfg.clockConstant.toNat
  /-- the indicators show the pattern of the last event, or are cleared (10_state.md R28) -/
  ind_shows : s.regs.ind = s.regs.hallprev ∨ s.regs.ind = 0
  /-- after an invalid sector the indicators show 000 or 111 (60_exceptions.md R138) -/
  secinv_shows : s.regs.secinv = true → s.regs.ind = 0 ∨ s.regs.ind = 7
  /-- the pattern 111 is never shown as a valid sector (40_commutation.md R71) -/
  all_high_invalid : s.regs.ind = 7 → s.regs.secinv = true
  /-- a saturated integral stands on a bound (42_pid.md R96) -/
  sati_bound : s.regs.sati = true → s.regs.integ = 0 ∨ s.regs.integ = s.cfg.integralMax
  /-- a saturated output stands on a bound (42_pid.md R96) -/
  sato_bound : s.regs.sato = true → s.regs.out = 0 ∨ s.regs.out = s.cfg.outputMax

/-- No phase has both switches driven (40_commutation.md R75 (c)). -/
def noShootThrough (v : DutyVec) : Prop := ∀ p : Phase, highSide v p = 0 ∨ lowSide v p = 0

/-- Every duty is within the range of the modulators (00_scope.md R8, `MAX_DUTY`). -/
def dutyWithin (cfg : Config) (v : DutyVec) : Prop :=
  ∀ p : Phase, (highSide v p).toNat ≤ cfg.maxDuty.toNat ∧ (lowSide v p).toNat ≤ cfg.maxDuty.toNat

/-- The opcode of the command a cycle executes, if it executes one (30_encoding.md R48, R49). -/
def commandOp (p : Pins) : Option (BitVec 4) :=
  if p.rst = false ∧ p.cmdValid = true then some (opField p.cmd) else none

/-- The cycle carries a `HALL` event (43_dispatcher.md R104). -/
def carriesHall (s : State) (p : Pins) : Bool := !p.rst && (p.hallIn != s.regs.hallprev)

/-- The cycle carries a `STEP` with `en = 1`. -/
def carriesEnabledStep (p : Pins) : Bool := commandOp p = some 3#4 && p.cmd.getLsbD 33

/-- The cycle's own tick, as a number (43_dispatcher.md R110). -/
def tickCount (p : Pins) : U32 := if p.tick then 1 else 0

/-- The state with the report flags `SECINV`, `SATI`, `SATO`, `EST` wiped (10_state.md R21). -/
def wipeReportFlags (s : State) : State :=
  { s with regs := { s.regs with secinv := false, sati := false, sato := false, est := 0 } }

/-- `raw = floor(N / D)`, the controller output before its clamp, from the registers before the step, over exact
integers (42_pid.md R85, R91, R92). -/
def rawOutput (cfg : Config) (r : Regs) (target measured : U32) : Int :=
  let pe : Int := r.perr.toInt
  let deriv : Int := pe - ((target.toNat : Int) - measured.toNat)
  let i2 : Int := max 0 (min (r.integ.toNat + pe) cfg.integralMax.toNat)
  let dtNum : Int := (cfg.dtNum : Nat)
  let dtDen : Int := (cfg.dtDen : Nat)
  Int.fdiv (r.kp.toInt * pe * dtNum * dtDen + r.ki.toInt * i2 * dtNum * dtNum + r.kd.toInt * deriv * dtDen * dtDen)
    (2 ^ cfg.gainFrac * dtNum * dtDen)

/-- `PIDSTEP(target, measured)` performed `n` times. -/
def repeatPid (target measured : U32) : Nat → State → Host.Outcome State Fault Refusal
  | 0, s => .next s
  | n + 1, s => andThen (repeatPid target measured n s) (exec (.pidstep target measured))

/-- The number an ASCII decimal numeral stands for. -/
def numeralValue (digits : List Byte) : Nat := digits.foldl (fun n d => 10 * n + (d.toNat - 0x30)) 0

end Sys2Proof.Machine
end

