-- ==== Sys2Proof/Certificates/Slice0/Obligations.lean ====
section
/-! DEFINITION. The statements for the provers. A rule is cited where the Lean states it; a state is any state of the
model, reached by a run or not, unless a hypothesis says otherwise. -/

open Sys2Proof Sys2Proof.Machine

/-- 70_reset_and_hazards.md R154: a rising edge with `rst = 1`. -/
def Obligations.ResetEdgeLoadsResetValues : Prop :=
  ∀ s : State, (pinsNow s).rst = true →
    step s = .next { s with
      regs := {
        timer := 0, tickSum := 0, evCnt := 0, speed := 0, perr := 0, integ := 0, out := 0, torque := 0
        kp := 0, ki := 0, kd := 0, dir := .cw, ready := false, secinv := false, sati := false, sato := false
        est := 0, duty := ⟨0, 0, 0, 0, 0, 0⟩, ind := 0, hallprev := (pinsNow s).hallIn }
      cmdErr := false
      tlm := none
      inputs := s.inputs.tail
      cycle := s.cycle + 1 }

/-- 10_state.md R30 for the constant `State.reset`. `HALLPREV = 0` is the model's choice (log 4), and so is what the
fields that are no registers hold (logs 2, 7, 11). -/
def Obligations.ResetStateIsAllZero : Prop :=
  State.reset.regs = {
    timer := 0, tickSum := 0, evCnt := 0, speed := 0, perr := 0, integ := 0, out := 0, torque := 0
    kp := 0, ki := 0, kd := 0, dir := .cw, ready := false, secinv := false, sati := false, sato := false
    est := 0, duty := ⟨0, 0, 0, 0, 0, 0⟩, ind := 0, hallprev := 0 }
  ∧ State.reset.cmdErr = false ∧ State.reset.tlm = none ∧ State.reset.telemetry = []

/-- 43_dispatcher.md R107. -/
def Obligations.TickAddsOneModulo : Prop :=
  ∀ s : State, exec .tick s = .next { s with
    regs := { s.regs with timer := BitVec.ofNat 32 ((s.regs.timer.toNat + 1) % 2 ^ 32) } }

/-- 43_dispatcher.md R111: all that a `HALL` event does. -/
def Obligations.HallEventCapturesCountsAndDrives : Prop :=
  ∀ (s : State) (h : Hall), h ≠ s.regs.hallprev →
    ∃ d : DriveResult, exec (.drive h s.regs.dir s.regs.torque) s = .next { s with ce := d }
      ∧ (d.inv = true ↔ h = 0 ∨ h = 7)
      ∧ exec (.hall h) s = .next { s with
          ce := d
          regs := { s.regs with
            tickSum := BitVec.ofNat 32 ((s.regs.tickSum.toNat + s.regs.timer.toNat) % 2 ^ 32)
            evCnt := BitVec.ofNat 32 ((s.regs.evCnt.toNat + 1) % 2 ^ 32)
            timer := 0
            duty := d.duty
            ind := d.ind
            secinv := d.inv
            ready := true
            hallprev := h } }

/-- A `HALL` whose pattern is the one `HALLPREV` holds is no event (DEDUCED from 43_dispatcher.md R104; log 6). -/
def Obligations.UnchangedHallPatternIsNoEvent : Prop :=
  ∀ s : State, exec (.hall s.regs.hallprev) s = .next s

/-- 43_dispatcher.md R104: in a cycle that carries nothing else, a change of `hall_in` is one `HALL` event and no change
is none. -/
def Obligations.EdgeDetectorComparesWithHallPrev : Prop :=
  ∀ s : State, (pinsNow s).rst = false → (pinsNow s).tick = false → (pinsNow s).cmdValid = false →
    ((pinsNow s).hallIn ≠ s.regs.hallprev → step s = exec (.hall (pinsNow s).hallIn) (beginCycle s))
    ∧ ((pinsNow s).hallIn = s.regs.hallprev → step s = .next (beginCycle s))

/-- 40_commutation.md R69, R70, R72: the result of `DRIVE` for every pattern, direction and torque. -/
def Obligations.DriveFollowsTheTable : Prop :=
  ∀ (s : State) (h : Hall) (d : Direction) (t : U16), ∃ r : DriveResult,
    exec (.drive h d t) s = .next { s with ce := r }
    ∧ (∀ i : Nat, r.ind.getLsbD i = h.getLsbD i)
    ∧ (h = 0 ∨ h = 7 → r.inv = true ∧ ∀ p : Phase, highSide r.duty p = 0 ∧ lowSide r.duty p = 0)
    ∧ (∀ sec : Sector, sectorNumber sec = h.toNat →
        r.inv = false ∧ ∀ p : Phase,
          highSide r.duty p = (if p = (commEntry s.cfg.commTable d sec).hi then t else 0)
          ∧ lowSide r.duty p = (if p = (commEntry s.cfg.commTable d sec).lo then t else 0))

/-- 40_commutation.md R75 (a) to (e). -/
def Obligations.DriveNeverShootsThrough : Prop :=
  ∀ (s : State) (h : Hall) (d : Direction) (t : U16), s.cfg.commTable.wf = true → 1 ≤ h.toNat → h.toNat ≤ 6 →
    ∃ (r : DriveResult) (hi lo : Phase), exec (.drive h d t) s = .next { s with ce := r }
      ∧ (highSide r.duty hi = t ∧ ∀ p, p ≠ hi → highSide r.duty p = 0)
      ∧ (lowSide r.duty lo = t ∧ ∀ p, p ≠ lo → lowSide r.duty p = 0)
      ∧ hi ≠ lo ∧ noShootThrough r.duty
      ∧ (∀ p, p ≠ hi → p ≠ lo → highSide r.duty p = 0 ∧ lowSide r.duty p = 0)
      ∧ (∀ s' : State, s'.cfg.commTable = s.cfg.commTable →
          exec (.drive h d t) s' = .next { s' with ce := r })

/-- 41_speed_estimator.md R77, R79. -/
def Obligations.EstimateDividesAverageIntoConstant : Prop :=
  ∀ (s : State) (ts ec k : U32), ∃ e : Estimate, exec (.estimate ts ec k) s = .next { s with se := e }
    ∧ (ec = 0 → e = ⟨.stalled, 0⟩)
    ∧ (ec ≠ 0 → ts.toNat / ec.toNat = 0 → e = ⟨.zeroInterval, 0⟩)
    ∧ (ec ≠ 0 → ts.toNat / ec.toNat ≠ 0 →
        e.verdict = .ok ∧ e.speed.toNat = k.toNat / (ts.toNat / ec.toNat))

/-- 41_speed_estimator.md R82: the range and the corner results of a valid measurement. -/
def Obligations.ValidSpeedRangeAndCorners : Prop :=
  ∀ (s t : State) (ts ec k : U32), exec (.estimate ts ec k) s = .next t → t.se.verdict = .ok →
    let avg := ts.toNat / ec.toNat
    (k.toNat < avg → t.se.speed = 0)
    ∧ (avg = 1 → t.se.speed = k)
    ∧ (k = 0 → t.se.speed = 0)
    ∧ t.se.speed.toNat ≤ k.toNat
    ∧ (t.se.speed = 1 ↔ k.toNat / 2 < avg ∧ avg ≤ k.toNat)
    ∧ (t.se.speed ≠ 0 → avg ≤ k.toNat)

/-- 42_pid.md R85: the whole of `PIDSTEP`, over exact integers. The last clause is the model's reading of R95 (log 8,
DEDUCED): R95 has a model refuse the configuration whose quotient exceeds 65535, this model refuses the step. -/
def Obligations.PidStepPerformsTheEightSteps : Prop :=
  ∀ (s : State) (target measured : U32),
    let pe : Int := s.regs.perr.toInt
    let error : Int := (target.toNat : Int) - measured.toNat
    let deriv : Int := pe - error
    let i1 : Int := s.regs.integ.toNat + pe
    let i2 : Int := max 0 (min i1 s.cfg.integralMax.toNat)
    let dtNum : Int := (s.cfg.dtNum : Nat)
    let dtDen : Int := (s.cfg.dtDen : Nat)
    let n : Int := s.regs.kp.toInt * pe * dtNum * dtDen + s.regs.ki.toInt * i2 * dtNum * dtNum
      + s.regs.kd.toInt * deriv * dtDen * dtDen
    let raw : Int := Int.fdiv n (2 ^ s.cfg.gainFrac * dtNum * dtDen)
    let out : Int := max 0 (min raw s.cfg.outputMax.toNat)
    let quotient : Nat := out.toNat / (s.cfg.outputToTorqueScale : Nat)
    (quotient ≤ 65535 →
      exec (.pidstep target measured) s = .next { s with regs := { s.regs with
        perr := BitVec.ofInt 33 error
        integ := BitVec.ofInt 32 i2
        out := BitVec.ofInt 32 out
        torque := BitVec.ofNat 16 quotient
        sati := decide (i1 ≠ i2)
        sato := decide (raw ≠ out) } })
    ∧ (65535 < quotient → exec (.pidstep target measured) s = .refused .torqueQuotientTooWide)

/-- 42_pid.md R87, R90, R92, R93, R95, R99: the registers hold the exact values, nothing wraps. -/
def Obligations.PidRegistersHoldExactValues : Prop :=
  ∀ (s t : State) (target measured : U32), exec (.pidstep target measured) s = .next t →
    t.regs.perr.toInt = (target.toNat : Int) - measured.toNat
    ∧ ((t.regs.integ.toNat : Int) = max 0 (min (s.regs.integ.toNat + s.regs.perr.toInt) s.cfg.integralMax.toNat))
    ∧ ((t.regs.out.toNat : Int) = max 0 (min (rawOutput s.cfg s.regs target measured) s.cfg.outputMax.toNat))
    ∧ t.regs.out.toNat ≤ s.cfg.outputMax.toNat
    ∧ t.regs.torque.toNat = t.regs.out.toNat / (s.cfg.outputToTorqueScale : Nat)
    ∧ (s.cfg.wf = true → t.regs.torque.toNat ≤ s.cfg.maxDuty.toNat)

/-- 42_pid.md R100: the first `PIDSTEP` after `INIT` commands no torque. -/
def Obligations.FirstPidStepAfterInitCommandsNothing : Prop :=
  ∀ (s : State) (kp ki kd : Gain) (target measured : U32), 0 ≤ kd.toInt → measured.toNat ≤ target.toNat →
    ∃ t u : State, exec (.init kp ki kd) s = .next t ∧ exec (.pidstep target measured) t = .next u
      ∧ u.regs.out = 0 ∧ u.regs.torque = 0 ∧ u.regs.integ = 0
      ∧ u.regs.perr.toInt = (target.toNat : Int) - measured.toNat

/-- 70_reset_and_hazards.md R156. -/
def Obligations.ResetAndInitDifferInGainsAndHallPrev : Prop :=
  (∀ (s : State) (kp ki kd : Gain), exec (.init kp ki kd) s = .next { s with
      regs := { Regs.reset s.regs.hallprev with kp := kp, ki := ki, kd := kd } })
  ∧ (∀ (s : State), (pinsNow s).rst = true → ∃ t, step s = .next t ∧ t.regs = Regs.reset (pinsNow s).hallIn)
  ∧ (∀ (s : State) (target measured : U32), s.regs.kp = 0 → s.regs.ki = 0 → s.regs.kd = 0 →
      ∃ t, exec (.pidstep target measured) s = .next t ∧ t.regs.out = 0 ∧ t.regs.torque = 0)

/-- 42_pid.md R103 (b): target 100 and measured 0 at every step. -/
def Obligations.IntegralRisesToItsCeilingAndStops : Prop :=
  ∀ (s : State) (k : Nat), s.regs.perr = 0 → s.regs.integ = 0 →
    s.cfg.outputMax.toNat / (s.cfg.outputToTorqueScale : Nat) ≤ 65535 →
    ∃ t, repeatPid 100 0 (k + 1) s = .next t
      ∧ t.regs.integ.toNat = min (100 * k) s.cfg.integralMax.toNat
      ∧ t.regs.perr.toInt = 100
      ∧ t.regs.sati = decide (s.cfg.integralMax.toNat < 100 * k)
      ∧ t.regs.out.toNat ≤ s.cfg.outputMax.toNat

/-- 44_host_commands.md R119. -/
def Obligations.NopLeavesTheState : Prop := ∀ s : State, exec .nop s = .next s

/-- 44_host_commands.md R120. -/
def Obligations.InitZeroesAllButHallPrev : Prop :=
  ∀ (s : State) (a b c : Gain), exec (.init a b c) s = .next { s with
    regs := {
      timer := 0, tickSum := 0, evCnt := 0, speed := 0, perr := 0, integ := 0, out := 0, torque := 0
      kp := a, ki := b, kd := c, dir := .cw, ready := false, secinv := false, sati := false, sato := false
      est := 0, duty := ⟨0, 0, 0, 0, 0, 0⟩, ind := 0, hallprev := s.regs.hallprev } }

/-- 44_host_commands.md R121. -/
def Obligations.RetuneWritesTheGainsOnly : Prop :=
  ∀ (s : State) (a b c : Gain), exec (.retune a b c) s = .next { s with
    regs := { s.regs with kp := a, ki := b, kd := c } }

/-- 45_pwm_arbiter.md R131, R132: the six operands, verbatim, in the order AH, AL, BH, BL, CH, CL. -/
def Obligations.ForceWritesSixDutiesVerbatim : Prop :=
  ∀ (s : State) (d0 d1 d2 d3 d4 d5 : U16), ∃ t : State,
    exec (.force d0 d1 d2 d3 d4 d5) s = .next t
    ∧ t = { s with regs := { s.regs with duty := { ah := d0, al := d1, bh := d2, bl := d3, ch := d4, cl := d5 } } }
    ∧ t.ports.duty = { ah := d0, al := d1, bh := d2, bl := d3, ch := d4, cl := d5 }

/-- 44_host_commands.md R129: a reserved opcode, in each of the three rows. -/
def Obligations.ReservedOpcodesOnlyRaiseCmdErr : Prop :=
  ∀ s : State, exec .reserved5 s = .next { s with cmdErr := true }
    ∧ (∀ op, exec (.reserved67 op) s = .next { s with cmdErr := true })
    ∧ (∀ op, exec (.reserved8F op) s = .next { s with cmdErr := true })

/-- 44_host_commands.md R123. -/
def Obligations.DisabledStepIsANoOp : Prop :=
  ∀ (s : State) (target : U32) (dir : Direction), exec (.step target dir false) s = .next s

/-- 44_host_commands.md R125. -/
def Obligations.StepWithNothingPendingLatchesDirection : Prop :=
  ∀ (s : State) (target : U32) (dir : Direction), s.regs.ready = false →
    exec (.step target dir true) s = .next { s with regs := { s.regs with dir := dir } }

/-- 44_host_commands.md R126. -/
def Obligations.InvalidMeasurementSkipsTheController : Prop :=
  ∀ (s : State) (target : U32) (dir : Direction), s.regs.ready = true →
    (s.regs.evCnt = 0 ∨ s.regs.tickSum.toNat < s.regs.evCnt.toNat) →
    exec (.step target dir true) s = .next { s with
      se := if s.regs.evCnt = 0 then ⟨.stalled, 0⟩ else ⟨.zeroInterval, 0⟩
      tlm := some ⟨0, s.regs.out⟩
      telemetry := s.telemetry ++ [⟨0, s.regs.out⟩]
      regs := { s.regs with
        dir := dir
        tickSum := 0
        evCnt := 0
        ready := false
        est := if s.regs.evCnt = 0 then 1 else 2
        speed := 0 } }

/-- 44_host_commands.md R122, the branch that consumes a valid measurement: the estimator's verdict is recorded, the
controller runs on the speed, and one record is emitted. -/
def Obligations.ValidMeasurementRunsTheController : Prop :=
  ∀ (s : State) (target speed : U32) (dir : Direction), s.regs.ready = true →
    s.regs.evCnt ≠ 0 → s.regs.evCnt.toNat ≤ s.regs.tickSum.toNat →
    speed.toNat = s.cfg.clockConstant.toNat / (s.regs.tickSum.toNat / s.regs.evCnt.toNat) →
    s.cfg.outputMax.toNat / (s.cfg.outputToTorqueScale : Nat) ≤ 65535 →
    ∃ u : State,
      exec (.pidstep target speed) { s with
        se := ⟨.ok, speed⟩
        regs := { s.regs with
          dir := dir, tickSum := 0, evCnt := 0, ready := false, est := 0, speed := speed } } = .next u
      ∧ exec (.step target dir true) s = .next { u with
          tlm := some ⟨speed, u.regs.out⟩
          telemetry := s.telemetry ++ [⟨speed, u.regs.out⟩] }

/-- 44_host_commands.md R127. -/
def Obligations.StepEmitsOneRecordPerConsume : Prop :=
  ∀ (s t : State) (target : U32) (dir : Direction) (en : Bool), exec (.step target dir en) s = .next t →
    (en = true ∧ s.regs.ready = true →
      t.telemetry = s.telemetry ++ [⟨t.regs.speed, t.regs.out⟩] ∧ t.tlm = some ⟨t.regs.speed, t.regs.out⟩)
    ∧ (¬(en = true ∧ s.regs.ready = true) → t.telemetry = s.telemetry ∧ t.tlm = s.tlm)

/-- 60_exceptions.md R150: when the telemetry port carries a record and which, in every cycle, and that the records are
kept in order. -/
def Obligations.TelemetryPortCarriesTheNewValues : Prop :=
  ∀ s t : State, step s = .next t →
    (t.tlm.isSome = true ↔ carriesEnabledStep (pinsNow s) = true
        ∧ (s.regs.ready = true ∨ carriesHall s (pinsNow s) = true))
    ∧ (∀ r, t.tlm = some r → r = ⟨t.regs.speed, t.regs.out⟩)
    ∧ t.telemetry = s.telemetry ++ t.tlm.toList

/-- 44_host_commands.md R128 and the rest of `STEP`'s frame. -/
def Obligations.StepLeavesOutputsTimerAndGains : Prop :=
  ∀ (s t : State) (target : U32) (dir : Direction) (en : Bool), exec (.step target dir en) s = .next t →
    t.regs.duty = s.regs.duty ∧ t.regs.ind = s.regs.ind ∧ t.regs.secinv = s.regs.secinv
    ∧ t.regs.timer = s.regs.timer ∧ t.regs.hallprev = s.regs.hallprev
    ∧ t.regs.kp = s.regs.kp ∧ t.regs.ki = s.regs.ki ∧ t.regs.kd = s.regs.kd
    ∧ t.ce = s.ce ∧ t.cfg = s.cfg ∧ t.cmdErr = s.cmdErr ∧ t.inputs = s.inputs ∧ t.cycle = s.cycle

/-- 10_state.md R18, R20, R23 to R26, R28: which operations can change which register, over all thirteen. -/
def Obligations.OnlyTheListedOperationsWrite : Prop :=
  ∀ (i : Instr) (s t : State), exec i s = .next t →
    (i.mnemonic ∉ ["TICK", "HALL", "INIT"] → t.regs.timer = s.regs.timer)
    ∧ (i.mnemonic ∉ ["HALL", "STEP", "INIT"] →
        t.regs.tickSum = s.regs.tickSum ∧ t.regs.evCnt = s.regs.evCnt ∧ t.regs.ready = s.regs.ready)
    ∧ (i.mnemonic ∉ ["STEP", "INIT"] → t.regs.speed = s.regs.speed ∧ t.regs.est = s.regs.est
        ∧ t.regs.dir = s.regs.dir)
    ∧ (i.mnemonic ∉ ["PIDSTEP", "STEP", "INIT"] →
        t.regs.perr = s.regs.perr ∧ t.regs.integ = s.regs.integ ∧ t.regs.out = s.regs.out
        ∧ t.regs.torque = s.regs.torque ∧ t.regs.sati = s.regs.sati ∧ t.regs.sato = s.regs.sato)
    ∧ (i.mnemonic ∉ ["INIT", "RETUNE"] →
        t.regs.kp = s.regs.kp ∧ t.regs.ki = s.regs.ki ∧ t.regs.kd = s.regs.kd)
    ∧ (i.mnemonic ∉ ["HALL", "INIT", "FORCE"] → t.regs.duty = s.regs.duty)
    ∧ (i.mnemonic ∉ ["HALL", "INIT"] → t.regs.ind = s.regs.ind ∧ t.regs.secinv = s.regs.secinv)
    ∧ (i.mnemonic ≠ "HALL" → t.regs.hallprev = s.regs.hallprev)
    ∧ (i.mnemonic ∉ ["DRIVE", "HALL"] → t.ce = s.ce)
    ∧ (i.mnemonic ∉ ["ESTIMATE", "STEP"] → t.se = s.se)
    ∧ (i.mnemonic ≠ "STEP" → t.tlm = s.tlm ∧ t.telemetry = s.telemetry)
    ∧ (i.mnemonic ∉ ["RESERVED_5", "RESERVED_6_7", "RESERVED_8_F"] → t.cmdErr = s.cmdErr)
    ∧ t.cfg = s.cfg ∧ t.inputs = s.inputs ∧ t.cycle = s.cycle

/-- 43_dispatcher.md R115: the reference cycle function. -/
def Obligations.CycleRunsTickThenHallThenCommand : Prop :=
  ∀ s : State, (pinsNow s).rst = false →
    step s =
      andThen (if (pinsNow s).tick = true then exec .tick (beginCycle s) else .next (beginCycle s)) fun s1 =>
      andThen (if (pinsNow s).hallIn ≠ s.regs.hallprev then exec (.hall (pinsNow s).hallIn) s1 else .next s1) fun s2 =>
      andThen (if (pinsNow s).cmdValid = true then exec (decodeCommand (pinsNow s).cmd) s2 else .next s2) fun s3 =>
      .next { s3 with regs := { s3.regs with hallprev := (pinsNow s).hallIn } }

/-- A step runs the decoded operation: when one port word stands on the pins and nothing else does, the step is that
operation on the state at the start of the cycle. -/
def Obligations.StepRunsTheDecodedWord : Prop :=
  ∀ (s : State) (w : PortWord) (i : Instr), decode w = .ok i →
    pinsNow s = pinsPresenting s.regs.hallprev w → step s = exec i (beginCycle s)

/-- The same through the placement of a table word (the model's convention, logs 3 and 9). -/
def Obligations.FetchWordRunsTheTableWord : Prop :=
  ∀ (s : State) (nbits w : Nat) (i : Instr), decodeTableWord nbits w = some i →
    step (s.withFetchWord nbits w) = exec i (beginCycle (s.withFetchWord nbits w))
    ∧ (∀ h, i = .hall h → h ≠ (s.withFetchWord nbits w).regs.hallprev)
    ∧ (s.withFetchWord nbits w).regs = { s.regs with hallprev := (s.withFetchWord nbits w).regs.hallprev }

/-- 30_encoding.md R55 to R58, R61: words written out from the encodings decode to what they stand for. -/
def Obligations.WordsDecodeAsWritten : Prop :=
  decode (.command 0x0000000000000000000000000#100) = .ok .nop
  ∧ decode (.command 0x1000100000064000000000000#100) = .ok (.init 65536 6553600 0)
  ∧ decode (.command 0x200020000FFFF000000000003#100) = .ok (.retune 131072 0xFFFF0000 3)
  ∧ decode (.command 0x300000000000000030000EA60#100) = .ok (.step 60000 .ccw true)
  ∧ decode (.command 0x4000600050004000300020001#100) = .ok (.force 1 2 3 4 5 6)
  ∧ decode (.command 0x9000000000000000000001234#100) = .ok (.reserved8F 9)
  ∧ decode (.hallPins 0b110#3) = .ok (.hall 6)
  ∧ decode (.tickPin 1#1) = .ok .tick

/-- Decoding gives back every well-formed instruction that has an encoding, with every operand at every value, and the
instructions without one are exactly the internal operations (30_encoding.md R62). -/
def Obligations.DecodeInvertsEncode : Prop :=
  ∀ i : Instr,
    (i.wf = true → ∀ w, encode i = some w → decode w = .ok i)
    ∧ (encode i = none ↔ i.mnemonic ∈ ["DRIVE", "ESTIMATE", "PIDSTEP"])

/-- 30_encoding.md R60: every command word is covered by exactly one row of the map, the row of the instruction it
decodes to. -/
def Obligations.EveryCommandWordHasOneRow : Prop :=
  ∀ c : CommandWord, ∃ row ∈ opcodeRows, row.covers c = true ∧ (decodeCommand c).mnemonic = row.mnemonic
    ∧ (decodeCommand c).wf = true ∧ ∀ other ∈ opcodeRows, other.covers c = true → other = row

/-- 30_encoding.md R57, R59, R61: the ignored bits of a command word do not matter. -/
def Obligations.IgnoredBitsDoNotMatter : Prop :=
  ∀ c c' : CommandWord, c.extractLsb' 96 4 = c'.extractLsb' 96 4 →
    ((c.extractLsb' 96 4 = 0#4 ∨ 5 ≤ (c.extractLsb' 96 4).toNat) → decodeCommand c = decodeCommand c')
    ∧ (c.extractLsb' 96 4 = 3#4 → c.extractLsb' 0 34 = c'.extractLsb' 0 34 → decodeCommand c = decodeCommand c')

/-- 30_encoding.md R61: `cmd_err = cmd_valid AND op ≥ 5` in every cycle that is no reset cycle; 70_reset_and_hazards.md
R154: `cmd_err = 0` in a reset cycle, whatever the command port carries. By R61 a reserved word changes nothing else,
the tick and the Hall event of its cycle happen as usual. -/
def Obligations.ReservedWordDrivesCmdErrOnly : Prop :=
  ∀ s : State,
    (∀ t, step s = .next t →
      t.cmdErr = (!(pinsNow s).rst && (pinsNow s).cmdValid && decide (5 ≤ (opField (pinsNow s).cmd).toNat)))
    ∧ ((pinsNow s).rst = false → (pinsNow s).cmdValid = true → 5 ≤ (opField (pinsNow s).cmd).toNat →
      ∃ t, step s = .next { t with cmdErr := true }
        ∧ clockEdge { pinsNow s with cmdValid := false } (beginCycle s) = .next t)

/-- The invariant holds right after reset, whatever the configuration. -/
def Obligations.InvariantHoldsAtReset : Prop := State.reset.Inv

/-- Every step keeps the invariant (10_state.md R17, R20, R28; 43_dispatcher.md R113; 42_pid.md R95, R96). -/
def Obligations.EveryStepKeepsTheInvariant : Prop :=
  ∀ s t : State, s.Inv → step s = .next t → t.Inv

/-- 60_exceptions.md R136: with a well-formed configuration every operation and every cycle completes. -/
def Obligations.NothingStopsAWellFormedCore : Prop :=
  ∀ s : State, s.cfg.wf = true →
    (∀ i : Instr, ∃ t, exec i s = .next t) ∧ ∃ t, step s = .next t ∧ t.cfg.wf = true

/-- 70_reset_and_hazards.md R159, 40_commutation.md R75 (c): only `FORCE` can put both switches of a phase on. -/
def Obligations.OnlyForceCanShootThrough : Prop :=
  ∀ s t : State, s.cfg.commTable.wf = true → noShootThrough s.regs.duty →
    commandOp (pinsNow s) ≠ some 4#4 → step s = .next t → noShootThrough t.regs.duty

/-- 40_commutation.md R73, 70_reset_and_hazards.md R160: with a well-formed configuration only `FORCE` can put a duty
above `MAX_DUTY` on the outputs. -/
def Obligations.OnlyForceCanExceedMaxDuty : Prop :=
  ∀ s t : State, s.Inv → s.cfg.wf = true → dutyWithin s.cfg s.regs.duty →
    commandOp (pinsNow s) ≠ some 4#4 → step s = .next t → dutyWithin t.cfg t.regs.duty

/-- 45_pwm_arbiter.md R130, R134: the duty registers hold what the last of their four writers put there. -/
def Obligations.DutyRegistersHoldTheLastWriter : Prop :=
  ∀ s t : State, step s = .next t →
    (((pinsNow s).rst = true ∨ commandOp (pinsNow s) = some 1#4) → t.regs.duty = ⟨0, 0, 0, 0, 0, 0⟩)
    ∧ (commandOp (pinsNow s) = some 4#4 → t.regs.duty =
        ⟨(pinsNow s).cmd.extractLsb' 0 16, (pinsNow s).cmd.extractLsb' 16 16, (pinsNow s).cmd.extractLsb' 32 16,
          (pinsNow s).cmd.extractLsb' 48 16, (pinsNow s).cmd.extractLsb' 64 16, (pinsNow s).cmd.extractLsb' 80 16⟩)
    ∧ ((pinsNow s).rst = false → commandOp (pinsNow s) ≠ some 1#4 → commandOp (pinsNow s) ≠ some 4#4 →
        (carriesHall s (pinsNow s) = true → ∃ d : DriveResult, t.regs.duty = d.duty
          ∧ exec (.drive (pinsNow s).hallIn s.regs.dir s.regs.torque) s = .next { s with ce := d })
        ∧ (carriesHall s (pinsNow s) = false → t.regs.duty = s.regs.duty))

/-- 00_scope.md R8, 20_memory.md R44: no step writes the configuration. -/
def Obligations.ConfigurationIsNeverWritten : Prop :=
  ∀ s t : State, step s = .next t → t.cfg = s.cfg

/-- 43_dispatcher.md R105. -/
def Obligations.HallPrevFollowsHallIn : Prop :=
  ∀ s t : State, step s = .next t → t.regs.hallprev = (pinsNow s).hallIn

/-- 43_dispatcher.md R113: the two-state sequencer. -/
def Obligations.SequencerFollowsItsTable : Prop :=
  ∀ s t : State, step s = .next t →
    t.regs.ready = (!(pinsNow s).rst && !(commandOp (pinsNow s) == some 1#4) && !carriesEnabledStep (pinsNow s)
      && (s.regs.ready || carriesHall s (pinsNow s)))

/-- 43_dispatcher.md R109, R110, R114, R117; 20_memory.md R39 (b): every tick and every event is counted once. -/
def Obligations.EveryTickAndEventIsCountedOnce : Prop :=
  ∀ s t : State, step s = .next t →
    t.regs.timer = (if (pinsNow s).rst = true ∨ commandOp (pinsNow s) = some 1#4 ∨ carriesHall s (pinsNow s) = true
      then 0 else s.regs.timer + tickCount (pinsNow s))
    ∧ (((pinsNow s).rst = true ∨ commandOp (pinsNow s) = some 1#4
          ∨ (carriesEnabledStep (pinsNow s) = true ∧ (s.regs.ready = true ∨ carriesHall s (pinsNow s) = true))) →
        t.regs.tickSum = 0 ∧ t.regs.evCnt = 0)
    ∧ ((pinsNow s).rst = false → commandOp (pinsNow s) ≠ some 1#4 →
        ¬(carriesEnabledStep (pinsNow s) = true ∧ (s.regs.ready = true ∨ carriesHall s (pinsNow s) = true)) →
        (carriesHall s (pinsNow s) = true →
          t.regs.tickSum = s.regs.tickSum + (s.regs.timer + tickCount (pinsNow s)) ∧ t.regs.evCnt = s.regs.evCnt + 1)
        ∧ (carriesHall s (pinsNow s) = false →
          t.regs.tickSum = s.regs.tickSum ∧ t.regs.evCnt = s.regs.evCnt))

/-- 20_memory.md R34, R39 (a), 95_test_vectors.md S7: a `HALL` event and a consume in one cycle; the measurement is of
the whole event, and nothing of it is left over. -/
def Obligations.ConsumeSeesTheWholeEvent : Prop :=
  ∀ s t : State, step s = .next t → carriesHall s (pinsNow s) = true → carriesEnabledStep (pinsNow s) = true →
    exec (.estimate (s.regs.tickSum + (s.regs.timer + tickCount (pinsNow s))) (s.regs.evCnt + 1) s.cfg.clockConstant)
        s = .next { s with se := t.se }
    ∧ t.regs.speed = t.se.speed ∧ t.regs.tickSum = 0 ∧ t.regs.evCnt = 0 ∧ t.regs.timer = 0 ∧ t.regs.ready = false

/-- 10_state.md R21: no result but the report flags themselves depends on `SECINV`, `SATI`, `SATO` or `EST`. -/
def Obligations.ReportFlagsSteerNothing : Prop :=
  ∀ s s' : State, wipeReportFlags s = wipeReportFlags s' →
    (∀ (i : Instr) (t : State), exec i s = .next t →
      ∃ t', exec i s' = .next t' ∧ wipeReportFlags t = wipeReportFlags t')
    ∧ (∀ t : State, step s = .next t → ∃ t', step s' = .next t' ∧ wipeReportFlags t = wipeReportFlags t')

/-- 10_state.md R22: the `status` port, bit by bit. -/
def Obligations.StatusWordShowsFlagsAndDirection : Prop :=
  ∀ s : State,
    s.ports.status.getLsbD 0 = s.regs.ready ∧ s.ports.status.getLsbD 1 = s.regs.secinv
    ∧ s.ports.status.getLsbD 2 = s.regs.sati ∧ s.ports.status.getLsbD 3 = s.regs.sato
    ∧ s.ports.status.extractLsb' 4 2 = s.regs.est
    ∧ s.ports.status.getLsbD 6 = decide (s.regs.dir = .ccw)

/-- 60_exceptions.md R137 rows 1 to 5, 42_pid.md R96: each condition is shown exactly when its cause was there. -/
def Obligations.ConditionsAreShownByTheirFlags : Prop :=
  (∀ (s t : State) (h : Hall), h ≠ s.regs.hallprev → exec (.hall h) s = .next t →
    (conditionShown t .invalidSector = true ↔ h = 0 ∨ h = 7))
  ∧ (∀ (s t : State) (target : U32) (dir : Direction), s.regs.ready = true →
    exec (.step target dir true) s = .next t →
    (conditionShown t .stalledMotor = true ↔ s.regs.evCnt = 0)
    ∧ (conditionShown t .zeroInterval = true ↔ s.regs.evCnt ≠ 0 ∧ s.regs.tickSum.toNat < s.regs.evCnt.toNat))
  ∧ (∀ (s t : State) (target measured : U32), exec (.pidstep target measured) s = .next t →
    (conditionShown t .integralSaturated = true ↔
      s.regs.integ.toNat + s.regs.perr.toInt < 0 ∨ s.cfg.integralMax.toNat < s.regs.integ.toNat + s.regs.perr.toInt)
    ∧ (conditionShown t .outputSaturated = true ↔
      rawOutput s.cfg s.regs target measured < 0 ∨ s.cfg.outputMax.toNat < rawOutput s.cfg s.regs target measured))

/-- 60_exceptions.md R151: the numeral of a u32 is its unsigned decimal, without leading zeros, and the line is the
template around the two numerals. -/
def Obligations.TelemetryLineIsTheDecimalTemplate : Prop :=
  (∀ v : U32, numeralValue (u32Digits v) = v.toNat
    ∧ (∀ d ∈ u32Digits v, 0x30 ≤ d.toNat ∧ d.toNat ≤ 0x39)
    ∧ (u32Digits v).length ≤ 10 ∧ (u32Digits v ≠ [])
    ∧ (v ≠ 0 → (u32Digits v).head? ≠ some 0x30#8) ∧ (v = 0 → u32Digits v = [0x30#8]))
  ∧ ∀ r : Telemetry, telemetryLine r =
      [0x53#8, 0x3A#8, 0x20#8] ++ u32Digits r.speed ++ [0x2C#8, 0x20#8, 0x45#8, 0x3A#8, 0x20#8] ++ u32Digits r.out
        ++ [0x0D#8, 0x0A#8]

/-- 00_scope.md R8 with 92_eei_decisions.md D15 and D16: a core is built with `DT_NUM = 1`, `DT_DEN = 1000`,
`GAIN_FRAC = 16`; 42_pid.md R91: what `PIDSTEP` then computes. -/
def Obligations.BuiltCoreUsesTheGivenConstants : Prop :=
  ((State.reset.cfg.dtNum : Nat) = 1 ∧ (State.reset.cfg.dtDen : Nat) = 1000 ∧ State.reset.cfg.gainFrac = 16)
  ∧ ∀ (s t : State) (target measured : U32),
    (s.cfg.dtNum : Nat) = 1 → (s.cfg.dtDen : Nat) = 1000 → s.cfg.gainFrac = 16 →
    exec (.pidstep target measured) s = .next t →
    let pe : Int := s.regs.perr.toInt
    let deriv : Int := pe - ((target.toNat : Int) - measured.toNat)
    let i2 : Int := max 0 (min (s.regs.integ.toNat + pe) s.cfg.integralMax.toNat)
    let n : Int := 1000 * s.regs.kp.toInt * pe + s.regs.ki.toInt * i2 + 1000000 * s.regs.kd.toInt * deriv
    (t.regs.out.toNat : Int) = max 0 (min (Int.fdiv n 65536000) s.cfg.outputMax.toNat)
end

