-- ==== Sys2Proof/Laws/State.lean ====
section
/-! SUPPORT. What each named update does to each field of the state, true by `rfl`: later proofs use these and do not
unfold an update. -/

namespace Sys2Proof.Machine

variable (s : State)

@[simp] theorem setGains_cfg (kp ki kd : Gain) : (setGains kp ki kd s).cfg = s.cfg := rfl
@[simp] theorem setGains_regs (kp ki kd : Gain) : (setGains kp ki kd s).regs =
    { s.regs with kp := kp, ki := ki, kd := kd } := rfl
@[simp] theorem setGains_ce (kp ki kd : Gain) : (setGains kp ki kd s).ce = s.ce := rfl
@[simp] theorem setGains_se (kp ki kd : Gain) : (setGains kp ki kd s).se = s.se := rfl
@[simp] theorem setGains_cmdErr (kp ki kd : Gain) : (setGains kp ki kd s).cmdErr = s.cmdErr := rfl
@[simp] theorem setGains_tlm (kp ki kd : Gain) : (setGains kp ki kd s).tlm = s.tlm := rfl
@[simp] theorem setGains_telemetry (kp ki kd : Gain) : (setGains kp ki kd s).telemetry = s.telemetry := rfl
@[simp] theorem setGains_inputs (kp ki kd : Gain) : (setGains kp ki kd s).inputs = s.inputs := rfl
@[simp] theorem setGains_cycle (kp ki kd : Gain) : (setGains kp ki kd s).cycle = s.cycle := rfl

@[simp] theorem countTick_cfg : (countTick s).cfg = s.cfg := rfl
@[simp] theorem countTick_regs : (countTick s).regs = { s.regs with timer := s.regs.timer + 1 } := rfl
@[simp] theorem countTick_ce : (countTick s).ce = s.ce := rfl
@[simp] theorem countTick_se : (countTick s).se = s.se := rfl
@[simp] theorem countTick_cmdErr : (countTick s).cmdErr = s.cmdErr := rfl
@[simp] theorem countTick_tlm : (countTick s).tlm = s.tlm := rfl
@[simp] theorem countTick_telemetry : (countTick s).telemetry = s.telemetry := rfl
@[simp] theorem countTick_inputs : (countTick s).inputs = s.inputs := rfl
@[simp] theorem countTick_cycle : (countTick s).cycle = s.cycle := rfl

@[simp] theorem captureInterval_cfg : (captureInterval s).cfg = s.cfg := rfl
@[simp] theorem captureInterval_regs : (captureInterval s).regs =
    { s.regs with tickSum := s.regs.tickSum + s.regs.timer, evCnt := s.regs.evCnt + 1, timer := 0, ready := true } := rfl
@[simp] theorem captureInterval_ce : (captureInterval s).ce = s.ce := rfl
@[simp] theorem captureInterval_se : (captureInterval s).se = s.se := rfl
@[simp] theorem captureInterval_cmdErr : (captureInterval s).cmdErr = s.cmdErr := rfl
@[simp] theorem captureInterval_tlm : (captureInterval s).tlm = s.tlm := rfl
@[simp] theorem captureInterval_telemetry : (captureInterval s).telemetry = s.telemetry := rfl
@[simp] theorem captureInterval_inputs : (captureInterval s).inputs = s.inputs := rfl
@[simp] theorem captureInterval_cycle : (captureInterval s).cycle = s.cycle := rfl

@[simp] theorem setDriveWires_cfg (d : DriveResult) : (setDriveWires d s).cfg = s.cfg := rfl
@[simp] theorem setDriveWires_regs (d : DriveResult) : (setDriveWires d s).regs = s.regs := rfl
@[simp] theorem setDriveWires_ce (d : DriveResult) : (setDriveWires d s).ce = d := rfl
@[simp] theorem setDriveWires_se (d : DriveResult) : (setDriveWires d s).se = s.se := rfl
@[simp] theorem setDriveWires_cmdErr (d : DriveResult) : (setDriveWires d s).cmdErr = s.cmdErr := rfl
@[simp] theorem setDriveWires_tlm (d : DriveResult) : (setDriveWires d s).tlm = s.tlm := rfl
@[simp] theorem setDriveWires_telemetry (d : DriveResult) : (setDriveWires d s).telemetry = s.telemetry := rfl
@[simp] theorem setDriveWires_inputs (d : DriveResult) : (setDriveWires d s).inputs = s.inputs := rfl
@[simp] theorem setDriveWires_cycle (d : DriveResult) : (setDriveWires d s).cycle = s.cycle := rfl

@[simp] theorem latchDrive_cfg : (latchDrive s).cfg = s.cfg := rfl
@[simp] theorem latchDrive_regs : (latchDrive s).regs =
    { s.regs with duty := s.ce.duty, ind := s.ce.ind, secinv := s.ce.inv } := rfl
@[simp] theorem latchDrive_ce : (latchDrive s).ce = s.ce := rfl
@[simp] theorem latchDrive_se : (latchDrive s).se = s.se := rfl
@[simp] theorem latchDrive_cmdErr : (latchDrive s).cmdErr = s.cmdErr := rfl
@[simp] theorem latchDrive_tlm : (latchDrive s).tlm = s.tlm := rfl
@[simp] theorem latchDrive_telemetry : (latchDrive s).telemetry = s.telemetry := rfl
@[simp] theorem latchDrive_inputs : (latchDrive s).inputs = s.inputs := rfl
@[simp] theorem latchDrive_cycle : (latchDrive s).cycle = s.cycle := rfl

@[simp] theorem setHallPrev_cfg (h : Hall) : (setHallPrev h s).cfg = s.cfg := rfl
@[simp] theorem setHallPrev_regs (h : Hall) : (setHallPrev h s).regs = { s.regs with hallprev := h } := rfl
@[simp] theorem setHallPrev_ce (h : Hall) : (setHallPrev h s).ce = s.ce := rfl
@[simp] theorem setHallPrev_se (h : Hall) : (setHallPrev h s).se = s.se := rfl
@[simp] theorem setHallPrev_cmdErr (h : Hall) : (setHallPrev h s).cmdErr = s.cmdErr := rfl
@[simp] theorem setHallPrev_tlm (h : Hall) : (setHallPrev h s).tlm = s.tlm := rfl
@[simp] theorem setHallPrev_telemetry (h : Hall) : (setHallPrev h s).telemetry = s.telemetry := rfl
@[simp] theorem setHallPrev_inputs (h : Hall) : (setHallPrev h s).inputs = s.inputs := rfl
@[simp] theorem setHallPrev_cycle (h : Hall) : (setHallPrev h s).cycle = s.cycle := rfl

@[simp] theorem writeDuty_cfg (d : DutyVec) : (writeDuty d s).cfg = s.cfg := rfl
@[simp] theorem writeDuty_regs (d : DutyVec) : (writeDuty d s).regs = { s.regs with duty := d } := rfl
@[simp] theorem writeDuty_ce (d : DutyVec) : (writeDuty d s).ce = s.ce := rfl
@[simp] theorem writeDuty_se (d : DutyVec) : (writeDuty d s).se = s.se := rfl
@[simp] theorem writeDuty_cmdErr (d : DutyVec) : (writeDuty d s).cmdErr = s.cmdErr := rfl
@[simp] theorem writeDuty_tlm (d : DutyVec) : (writeDuty d s).tlm = s.tlm := rfl
@[simp] theorem writeDuty_telemetry (d : DutyVec) : (writeDuty d s).telemetry = s.telemetry := rfl
@[simp] theorem writeDuty_inputs (d : DutyVec) : (writeDuty d s).inputs = s.inputs := rfl
@[simp] theorem writeDuty_cycle (d : DutyVec) : (writeDuty d s).cycle = s.cycle := rfl

@[simp] theorem setDir_cfg (d : Direction) : (setDir d s).cfg = s.cfg := rfl
@[simp] theorem setDir_regs (d : Direction) : (setDir d s).regs = { s.regs with dir := d } := rfl
@[simp] theorem setDir_ce (d : Direction) : (setDir d s).ce = s.ce := rfl
@[simp] theorem setDir_se (d : Direction) : (setDir d s).se = s.se := rfl
@[simp] theorem setDir_cmdErr (d : Direction) : (setDir d s).cmdErr = s.cmdErr := rfl
@[simp] theorem setDir_tlm (d : Direction) : (setDir d s).tlm = s.tlm := rfl
@[simp] theorem setDir_telemetry (d : Direction) : (setDir d s).telemetry = s.telemetry := rfl
@[simp] theorem setDir_inputs (d : Direction) : (setDir d s).inputs = s.inputs := rfl
@[simp] theorem setDir_cycle (d : Direction) : (setDir d s).cycle = s.cycle := rfl

@[simp] theorem clearMeasurement_cfg : (clearMeasurement s).cfg = s.cfg := rfl
@[simp] theorem clearMeasurement_regs : (clearMeasurement s).regs =
    { s.regs with tickSum := 0, evCnt := 0, ready := false } := rfl
@[simp] theorem clearMeasurement_ce : (clearMeasurement s).ce = s.ce := rfl
@[simp] theorem clearMeasurement_se : (clearMeasurement s).se = s.se := rfl
@[simp] theorem clearMeasurement_cmdErr : (clearMeasurement s).cmdErr = s.cmdErr := rfl
@[simp] theorem clearMeasurement_tlm : (clearMeasurement s).tlm = s.tlm := rfl
@[simp] theorem clearMeasurement_telemetry : (clearMeasurement s).telemetry = s.telemetry := rfl
@[simp] theorem clearMeasurement_inputs : (clearMeasurement s).inputs = s.inputs := rfl
@[simp] theorem clearMeasurement_cycle : (clearMeasurement s).cycle = s.cycle := rfl

@[simp] theorem setEstimateWires_cfg (e : Estimate) : (setEstimateWires e s).cfg = s.cfg := rfl
@[simp] theorem setEstimateWires_regs (e : Estimate) : (setEstimateWires e s).regs = s.regs := rfl
@[simp] theorem setEstimateWires_ce (e : Estimate) : (setEstimateWires e s).ce = s.ce := rfl
@[simp] theorem setEstimateWires_se (e : Estimate) : (setEstimateWires e s).se = e := rfl
@[simp] theorem setEstimateWires_cmdErr (e : Estimate) : (setEstimateWires e s).cmdErr = s.cmdErr := rfl
@[simp] theorem setEstimateWires_tlm (e : Estimate) : (setEstimateWires e s).tlm = s.tlm := rfl
@[simp] theorem setEstimateWires_telemetry (e : Estimate) : (setEstimateWires e s).telemetry = s.telemetry := rfl
@[simp] theorem setEstimateWires_inputs (e : Estimate) : (setEstimateWires e s).inputs = s.inputs := rfl
@[simp] theorem setEstimateWires_cycle (e : Estimate) : (setEstimateWires e s).cycle = s.cycle := rfl

@[simp] theorem latchEstimate_cfg : (latchEstimate s).cfg = s.cfg := rfl
@[simp] theorem latchEstimate_regs : (latchEstimate s).regs =
    { s.regs with est := verdictCode s.se.verdict, speed := s.se.speed } := rfl
@[simp] theorem latchEstimate_ce : (latchEstimate s).ce = s.ce := rfl
@[simp] theorem latchEstimate_se : (latchEstimate s).se = s.se := rfl
@[simp] theorem latchEstimate_cmdErr : (latchEstimate s).cmdErr = s.cmdErr := rfl
@[simp] theorem latchEstimate_tlm : (latchEstimate s).tlm = s.tlm := rfl
@[simp] theorem latchEstimate_telemetry : (latchEstimate s).telemetry = s.telemetry := rfl
@[simp] theorem latchEstimate_inputs : (latchEstimate s).inputs = s.inputs := rfl
@[simp] theorem latchEstimate_cycle : (latchEstimate s).cycle = s.cycle := rfl

@[simp] theorem emitTelemetry_cfg : (emitTelemetry s).cfg = s.cfg := rfl
@[simp] theorem emitTelemetry_regs : (emitTelemetry s).regs = s.regs := rfl
@[simp] theorem emitTelemetry_ce : (emitTelemetry s).ce = s.ce := rfl
@[simp] theorem emitTelemetry_se : (emitTelemetry s).se = s.se := rfl
@[simp] theorem emitTelemetry_cmdErr : (emitTelemetry s).cmdErr = s.cmdErr := rfl
@[simp] theorem emitTelemetry_tlm : (emitTelemetry s).tlm = some ⟨s.regs.speed, s.regs.out⟩ := rfl
@[simp] theorem emitTelemetry_telemetry : (emitTelemetry s).telemetry =
    s.telemetry ++ [⟨s.regs.speed, s.regs.out⟩] := rfl
@[simp] theorem emitTelemetry_inputs : (emitTelemetry s).inputs = s.inputs := rfl
@[simp] theorem emitTelemetry_cycle : (emitTelemetry s).cycle = s.cycle := rfl

@[simp] theorem raiseCmdErr_cfg : (raiseCmdErr s).cfg = s.cfg := rfl
@[simp] theorem raiseCmdErr_regs : (raiseCmdErr s).regs = s.regs := rfl
@[simp] theorem raiseCmdErr_ce : (raiseCmdErr s).ce = s.ce := rfl
@[simp] theorem raiseCmdErr_se : (raiseCmdErr s).se = s.se := rfl
@[simp] theorem raiseCmdErr_cmdErr : (raiseCmdErr s).cmdErr = true := rfl
@[simp] theorem raiseCmdErr_tlm : (raiseCmdErr s).tlm = s.tlm := rfl
@[simp] theorem raiseCmdErr_telemetry : (raiseCmdErr s).telemetry = s.telemetry := rfl
@[simp] theorem raiseCmdErr_inputs : (raiseCmdErr s).inputs = s.inputs := rfl
@[simp] theorem raiseCmdErr_cycle : (raiseCmdErr s).cycle = s.cycle := rfl

@[simp] theorem resetEdge_cfg (h : Hall) : (resetEdge h s).cfg = s.cfg := rfl
@[simp] theorem resetEdge_regs (h : Hall) : (resetEdge h s).regs = Regs.reset h := rfl
@[simp] theorem resetEdge_ce (h : Hall) : (resetEdge h s).ce = s.ce := rfl
@[simp] theorem resetEdge_se (h : Hall) : (resetEdge h s).se = s.se := rfl
@[simp] theorem resetEdge_cmdErr (h : Hall) : (resetEdge h s).cmdErr = false := rfl
@[simp] theorem resetEdge_tlm (h : Hall) : (resetEdge h s).tlm = none := rfl
@[simp] theorem resetEdge_telemetry (h : Hall) : (resetEdge h s).telemetry = s.telemetry := rfl
@[simp] theorem resetEdge_inputs (h : Hall) : (resetEdge h s).inputs = s.inputs := rfl
@[simp] theorem resetEdge_cycle (h : Hall) : (resetEdge h s).cycle = s.cycle := rfl

@[simp] theorem beginCycle_cfg : (beginCycle s).cfg = s.cfg := rfl
@[simp] theorem beginCycle_regs : (beginCycle s).regs = s.regs := rfl
@[simp] theorem beginCycle_ce : (beginCycle s).ce = s.ce := rfl
@[simp] theorem beginCycle_se : (beginCycle s).se = s.se := rfl
@[simp] theorem beginCycle_cmdErr : (beginCycle s).cmdErr = false := rfl
@[simp] theorem beginCycle_tlm : (beginCycle s).tlm = none := rfl
@[simp] theorem beginCycle_telemetry : (beginCycle s).telemetry = s.telemetry := rfl
@[simp] theorem beginCycle_inputs : (beginCycle s).inputs = s.inputs.tail := rfl
@[simp] theorem beginCycle_cycle : (beginCycle s).cycle = s.cycle + 1 := rfl

@[simp] theorem writePid_cfg (v : PidValues) (q : Nat) : (writePid v q s).cfg = s.cfg := rfl
@[simp] theorem writePid_regs (v : PidValues) (q : Nat) : (writePid v q s).regs =
    { s.regs with
      perr := BitVec.ofInt 33 v.error
      integ := BitVec.ofInt 32 v.i2
      out := BitVec.ofInt 32 v.out
      torque := BitVec.ofNat 16 q
      sati := saturated v.i1 v.i2
      sato := saturated v.raw v.out } := rfl
@[simp] theorem writePid_ce (v : PidValues) (q : Nat) : (writePid v q s).ce = s.ce := rfl
@[simp] theorem writePid_se (v : PidValues) (q : Nat) : (writePid v q s).se = s.se := rfl
@[simp] theorem writePid_cmdErr (v : PidValues) (q : Nat) : (writePid v q s).cmdErr = s.cmdErr := rfl
@[simp] theorem writePid_tlm (v : PidValues) (q : Nat) : (writePid v q s).tlm = s.tlm := rfl
@[simp] theorem writePid_telemetry (v : PidValues) (q : Nat) : (writePid v q s).telemetry = s.telemetry := rfl
@[simp] theorem writePid_inputs (v : PidValues) (q : Nat) : (writePid v q s).inputs = s.inputs := rfl
@[simp] theorem writePid_cycle (v : PidValues) (q : Nat) : (writePid v q s).cycle = s.cycle := rfl

end Sys2Proof.Machine
end

