-- ==== Sys2Proof/Laws/Ops.lean ====
section
/-! SUPPORT. What each shared operation can do, said once: the arithmetic primitives, the duty vector, `DRIVE`,
`ESTIMATE`, `PIDSTEP` and the consume of `STEP`. -/

namespace Sys2Proof.Machine

/-! ### Arithmetic -/

theorem clamp_eq_max_min {lo hi : Int} (h : lo ≤ hi) (x : Int) : clamp x lo hi = max lo (min x hi) := by
  unfold clamp; split <;> [skip; split] <;> omega

theorem clamp_range {lo hi : Int} (h : lo ≤ hi) (x : Int) : lo ≤ clamp x lo hi ∧ clamp x lo hi ≤ hi := by
  rw [clamp_eq_max_min h]; omega

/-- A clamp leaves the value alone or puts it on the bound it crossed. -/
theorem clamp_cases (x lo hi : Int) :
    (clamp x lo hi = x) ∨ (x < lo ∧ clamp x lo hi = lo) ∨ (hi < x ∧ clamp x lo hi = hi) := by
  unfold clamp; split <;> [skip; split] <;> omega

/-- For a positive divisor the quotient is the floor (00_scope.md R13). -/
theorem floorDiv_eq_fdiv {q : Int} (h : 0 < q) (p : Int) : floorDiv p q = Int.fdiv p q := by
  rw [floorDiv, Int.fdiv_eq_ediv_of_nonneg _ h.le]

theorem floorDiv_bounds {q : Int} (h : 0 < q) (p : Int) :
    floorDiv p q * q ≤ p ∧ p < (floorDiv p q + 1) * q :=
  ⟨Int.ediv_mul_le _ h.ne', Int.lt_ediv_add_one_mul_self _ h⟩

theorem toInt_ofInt_of_range {w : Nat} {x : Int} (lo : -2 ^ w ≤ x) (hi : x < 2 ^ w) :
    (BitVec.ofInt (w + 1) x).toInt = x := by
  rw [BitVec.toInt_ofInt]
  have e : ((2 ^ (w + 1) : Nat) : Int) = 2 * 2 ^ w := by push_cast; ring
  exact Int.bmod_eq_of_le (by rw [e]; omega) (by rw [e]; omega)

theorem toNat_ofInt_of_range {w : Nat} {x : Int} (lo : 0 ≤ x) (hi : x < 2 ^ w) :
    ((BitVec.ofInt w x).toNat : Int) = x := by
  rw [BitVec.toNat_ofInt]
  have e : ((2 ^ w : Nat) : Int) = 2 ^ w := by push_cast; ring
  rw [e, Int.emod_eq_of_lt lo hi]; omega

/-! ### The duty vector and `DRIVE` -/

@[simp] theorem highSide_dutyOff (p : Phase) : highSide dutyOff p = 0 := by cases p <;> rfl

@[simp] theorem lowSide_dutyOff (p : Phase) : lowSide dutyOff p = 0 := by cases p <;> rfl

@[simp] theorem highSide_setHighSide (v : DutyVec) (p q : Phase) (t : U16) :
    highSide (setHighSide v p t) q = if q = p then t else highSide v q := by cases p <;> cases q <;> rfl

@[simp] theorem lowSide_setHighSide (v : DutyVec) (p q : Phase) (t : U16) :
    lowSide (setHighSide v p t) q = lowSide v q := by cases p <;> cases q <;> rfl

@[simp] theorem highSide_setLowSide (v : DutyVec) (p q : Phase) (t : U16) :
    highSide (setLowSide v p t) q = highSide v q := by cases p <;> cases q <;> rfl

@[simp] theorem lowSide_setLowSide (v : DutyVec) (p q : Phase) (t : U16) :
    lowSide (setLowSide v p t) q = if q = p then t else lowSide v q := by cases p <;> cases q <;> rfl

/-- A Hall pattern has no sector exactly when it is 000 or 111 (40_commutation.md R66). -/
theorem sectorOf_eq_none : ∀ h : Hall, sectorOf h = none ↔ h = 0 ∨ h = 7 := by decide

/-- The sector of a pattern is the one with its number (40_commutation.md R66). -/
theorem sectorOf_eq_some : ∀ (h : Hall) (sec : Sector), sectorOf h = some sec ↔ sectorNumber sec = h.toNat := by
  intro h sec; cases sec <;> revert h <;> decide

theorem driveResult_of_some {h : Hall} {sec : Sector} (e : sectorOf h = some sec) (table : CommTable) (d : Direction)
    (t : U16) : driveResult table h d t =
      ⟨setLowSide (setHighSide dutyOff (commEntry table d sec).hi t) (commEntry table d sec).lo t, h, false⟩ := by
  rw [driveResult, e]

theorem driveResult_of_none {h : Hall} (e : sectorOf h = none) (table : CommTable) (d : Direction) (t : U16) :
    driveResult table h d t = ⟨dutyOff, h, true⟩ := by
  rw [driveResult, e]

@[simp] theorem driveResult_ind (table : CommTable) (h : Hall) (d : Direction) (t : U16) :
    (driveResult table h d t).ind = h := by unfold driveResult; split <;> rfl

/-- `inv = 1` exactly for the patterns 000 and 111 (40_commutation.md R69, R71). -/
theorem driveResult_inv (table : CommTable) (h : Hall) (d : Direction) (t : U16) :
    (driveResult table h d t).inv = true ↔ h = 0 ∨ h = 7 := by
  rw [← sectorOf_eq_none]; unfold driveResult; split <;> simp [*]

/-- A driven duty is 0 or the torque, whatever the pattern (40_commutation.md R69). -/
theorem driveResult_values (table : CommTable) (h : Hall) (d : Direction) (t : U16) (p : Phase) :
    (highSide (driveResult table h d t).duty p = 0 ∨ highSide (driveResult table h d t).duty p = t)
    ∧ (lowSide (driveResult table h d t).duty p = 0 ∨ lowSide (driveResult table h d t).duty p = t) := by
  cases e : sectorOf h with
  | none => simp [driveResult_of_none e]
  | some sec =>
    simp only [driveResult_of_some e, highSide_setLowSide, highSide_setHighSide, lowSide_setLowSide,
      lowSide_setHighSide, highSide_dutyOff, lowSide_dutyOff]
    constructor <;> split <;> simp

/-- A well-formed table has different phases in every entry (40_commutation.md R67). -/
theorem commEntry_ne {table : CommTable} (w : table.wf = true) (d : Direction) (sec : Sector) :
    (commEntry table d sec).hi ≠ (commEntry table d sec).lo := by
  simp only [CommTable.wf, SectorTable.wf, PhasePair.wf, Bool.and_eq_true, decide_eq_true_eq] at w
  cases d <;> cases sec <;> simp only [commEntry, sectorEntry] <;> tauto

/-- With a well-formed table `DRIVE` never drives both switches of a phase (40_commutation.md R75 (c)). -/
theorem driveResult_noShootThrough {table : CommTable} (w : table.wf = true) (h : Hall) (d : Direction) (t : U16) :
    noShootThrough (driveResult table h d t).duty := by
  intro p
  cases e : sectorOf h with
  | none => simp [driveResult_of_none e]
  | some sec =>
    have ne := commEntry_ne w d sec
    simp only [driveResult_of_some e, highSide_setLowSide, highSide_setHighSide, lowSide_setLowSide,
      lowSide_setHighSide, highSide_dutyOff, lowSide_dutyOff]
    by_cases hp : p = (commEntry table d sec).hi
    · exact .inr (by rw [if_neg (hp ▸ ne)])
    · exact .inl (by rw [if_neg hp])

/-! ### `ESTIMATE` -/

/-- The three results of `ESTIMATE` (41_speed_estimator.md R77 to R80). -/
theorem estimateResult_cases (ts ec k : U32) :
    (ec = 0 ∧ estimateResult ts ec k = ⟨.stalled, 0⟩)
    ∨ (ec ≠ 0 ∧ ts.toNat < ec.toNat ∧ estimateResult ts ec k = ⟨.zeroInterval, 0⟩)
    ∨ (ec ≠ 0 ∧ ec.toNat ≤ ts.toNat ∧ estimateResult ts ec k = ⟨.ok, k / (ts / ec)⟩) := by
  unfold estimateResult
  by_cases h : ec = 0
  · exact .inl ⟨h, by rw [if_pos h]⟩
  · have pos : 0 < ec.toNat := Nat.pos_of_ne_zero fun e => h (BitVec.eq_of_toNat_eq (by simpa using e))
    have z : ts / ec = 0 ↔ ts.toNat < ec.toNat := by
      rw [← BitVec.toNat_inj, BitVec.toNat_udiv]
      simp only [BitVec.ofNat_eq_ofNat, BitVec.toNat_ofNat, Nat.zero_mod]
      rw [Nat.div_eq_zero_iff]; omega
    by_cases hz : ts / ec = 0
    · exact .inr (.inl ⟨h, z.mp hz, by rw [if_neg h, if_pos hz]⟩)
    · have le : ec.toNat ≤ ts.toNat := by have := mt z.mpr hz; omega
      exact .inr (.inr ⟨h, le, by rw [if_neg h, if_neg hz]⟩)

/-- The speed of `ESTIMATE` never exceeds the clock constant, and is 0 unless the verdict is OK
(41_speed_estimator.md R77, R82). -/
theorem estimateResult_range (ts ec k : U32) :
    (estimateResult ts ec k).speed.toNat ≤ k.toNat
    ∧ ((estimateResult ts ec k).verdict ≠ .ok → (estimateResult ts ec k).speed = 0) := by
  rcases estimateResult_cases ts ec k with ⟨_, e⟩ | ⟨_, _, e⟩ | ⟨_, _, e⟩ <;> rw [e] <;> simp [Nat.div_le_self]

theorem verdictCode_ne_three (v : Verdict) : verdictCode v ≠ 3#2 := by cases v <;> decide

theorem verdictCode_eq_zero (v : Verdict) : verdictCode v = 0#2 ↔ v = .ok := by cases v <;> decide

/-! ### `PIDSTEP` -/

theorem pidDenominator_pos (cfg : Config) : 0 < pidDenominator cfg := by
  have a := cfg.dtNum.pos; have b := cfg.dtDen.pos
  unfold pidDenominator; positivity

theorem pidError_range (target measured : U32) :
    -(2 ^ 32 - 1) ≤ pidError target measured ∧ pidError target measured ≤ 2 ^ 32 - 1 := by
  have a := target.isLt; have b := measured.isLt
  simp only [pidError, u32Value]; omega

/-- What the five intermediate values are (42_pid.md R85). -/
theorem pidValues_spec (cfg : Config) (r : Regs) (target measured : U32) :
    (pidValues cfg r target measured).error = (target.toNat : Int) - measured.toNat
    ∧ (pidValues cfg r target measured).i1 = r.integ.toNat + r.perr.toInt
    ∧ (pidValues cfg r target measured).i2 = max 0 (min (r.integ.toNat + r.perr.toInt) cfg.integralMax.toNat)
    ∧ (pidValues cfg r target measured).out
        = max 0 (min (pidValues cfg r target measured).raw cfg.outputMax.toNat) := by
  refine ⟨rfl, rfl, ?_, ?_⟩
  · exact clamp_eq_max_min (by simp [u32Value]) _
  · exact clamp_eq_max_min (by simp [u32Value]) _

/-- The output before its clamp is the floor of the exact quotient (42_pid.md R85, R92). -/
theorem pidValues_raw (cfg : Config) (r : Regs) (target measured : U32) :
    (pidValues cfg r target measured).raw = rawOutput cfg r target measured := by
  change floorDiv (pidNumerator cfg r.kp.toInt r.ki.toInt r.kd.toInt r.perr.toInt
    (pidValues cfg r target measured).i2 (r.perr.toInt - ((target.toNat : Int) - measured.toNat)))
    (pidDenominator cfg) = _
  rw [(pidValues_spec cfg r target measured).2.2.1, floorDiv_eq_fdiv (pidDenominator_pos cfg)]
  rfl

/-- The registers after the writes of a `PIDSTEP` hold its exact values (42_pid.md R99). -/
theorem writePid_exact (s : State) (target measured : U32) {q : Nat} (hq : q ≤ 65535) :
    let v := pidValues s.cfg s.regs target measured
    (writePid v q s).regs.perr.toInt = v.error
    ∧ ((writePid v q s).regs.integ.toNat : Int) = v.i2
    ∧ ((writePid v q s).regs.out.toNat : Int) = v.out
    ∧ (writePid v q s).regs.torque.toNat = q := by
  obtain ⟨he, _, hi, ho⟩ := pidValues_spec s.cfg s.regs target measured
  have a := target.isLt; have b := measured.isLt
  have c := s.cfg.integralMax.isLt; have d := s.cfg.outputMax.isLt
  refine ⟨toInt_ofInt_of_range (w := 32) ?_ ?_, toNat_ofInt_of_range ?_ ?_, toNat_ofInt_of_range ?_ ?_, ?_⟩
  · rw [he]; omega
  · rw [he]; omega
  · rw [hi]; omega
  · rw [hi]; omega
  · rw [ho]; omega
  · rw [ho]; omega
  · simp only [writePid_regs, BitVec.toNat_ofNat]; omega

/-- `PIDSTEP` writes its values or refuses, by the quotient (42_pid.md R85, R95). -/
theorem pidStep_eq (target measured : U32) (s : State) :
    pidStep target measured s =
      if pidTorque s.cfg (pidValues s.cfg s.regs target measured).out ≤ 65535
      then .next (writePid (pidValues s.cfg s.regs target measured)
        (pidTorque s.cfg (pidValues s.cfg s.regs target measured).out) s)
      else .refused .torqueQuotientTooWide := rfl

theorem pidStep_cases {target measured : U32} {s t : State} (h : pidStep target measured s = .next t) :
    pidTorque s.cfg (pidValues s.cfg s.regs target measured).out ≤ 65535
    ∧ t = writePid (pidValues s.cfg s.regs target measured)
        (pidTorque s.cfg (pidValues s.cfg s.regs target measured).out) s := by
  rw [pidStep_eq] at h
  split at h
  · exact ⟨‹_›, by simpa using h.symm⟩
  · cases h

/-- The quotient of a step is at most the quotient of the ceiling (42_pid.md R95). -/
theorem pidTorque_le (s : State) (target measured : U32) :
    pidTorque s.cfg (pidValues s.cfg s.regs target measured).out
      ≤ s.cfg.outputMax.toNat / (s.cfg.outputToTorqueScale : Nat) := by
  obtain ⟨_, _, _, ho⟩ := pidValues_spec s.cfg s.regs target measured
  exact Nat.div_le_div_right (by omega)

/-- A configuration whose ceiling gives a 16-bit torque never stops `PIDSTEP` (42_pid.md R95). -/
theorem pidStep_completes {s : State} (h : s.cfg.outputMax.toNat / (s.cfg.outputToTorqueScale : Nat) ≤ 65535)
    (target measured : U32) : pidStep target measured s = .next (writePid (pidValues s.cfg s.regs target measured)
      (pidTorque s.cfg (pidValues s.cfg s.regs target measured).out) s) := by
  rw [pidStep_eq, if_pos ((pidTorque_le s target measured).trans h)]

theorem torque_fits_of_wf {cfg : Config} (w : cfg.wf = true) :
    cfg.outputMax.toNat / (cfg.outputToTorqueScale : Nat) ≤ cfg.maxDuty.toNat
    ∧ cfg.outputMax.toNat / (cfg.outputToTorqueScale : Nat) ≤ 65535 := by
  simp only [Config.wf, Config.torqueInRange, Bool.and_eq_true, decide_eq_true_eq] at w
  have := cfg.maxDuty.isLt
  omega

/-! ### `STEP` -/

/-- What a consume's controller part does: the step of a valid measurement, nothing on an invalid one. -/
theorem controlUpdate_cases {target : U32} {s t : State} (h : controlUpdate target s = .next t) :
    (s.se.verdict = .ok ∧ pidStep target s.se.speed s = .next t) ∨ (s.se.verdict ≠ .ok ∧ t = s) := by
  unfold controlUpdate at h
  split at h <;> rename_i e
  · exact .inl ⟨e, h⟩
  · exact .inr ⟨by simp [e], by simpa using h.symm⟩
  · exact .inr ⟨by simp [e], by simpa using h.symm⟩

/-- A consume's controller part writes the six registers of the controller and nothing else. -/
theorem controlUpdate_frame {target : U32} {s u : State} (h : controlUpdate target s = .next u) :
    u = { s with regs := { s.regs with
      perr := u.regs.perr, integ := u.regs.integ, out := u.regs.out, torque := u.regs.torque
      sati := u.regs.sati, sato := u.regs.sato } } := by
  rcases controlUpdate_cases h with ⟨_, h⟩ | ⟨_, rfl⟩
  · obtain ⟨_, rfl⟩ := pidStep_cases h; rfl
  · rfl

theorem consume_cases {target : U32} {s t : State} (h : consume target s = .next t) :
    ∃ u, controlUpdate target (takeMeasurement s) = .next u ∧ t = emitTelemetry u := by
  unfold consume andThen at h
  split at h
  · exact ⟨_, ‹_›, by simpa using h.symm⟩
  · cases h
  · cases h

/-- Everything a `STEP` that completes can have done (44_host_commands.md R122). -/
theorem execStep_cases {target : U32} {dir : Direction} {en : Bool} {s t : State}
    (h : execStep target dir en s = .next t) :
    (en = false ∧ t = s)
    ∨ (en = true ∧ s.regs.ready = false ∧ t = setDir dir s)
    ∨ (en = true ∧ s.regs.ready = true ∧
        ∃ u, controlUpdate target (takeMeasurement (setDir dir s)) = .next u ∧ t = emitTelemetry u) := by
  unfold execStep at h
  cases en with
  | false => exact .inl ⟨rfl, by simpa using h.symm⟩
  | true =>
    rw [if_pos rfl] at h
    cases e : s.regs.ready with
    | false => exact .inr (.inl ⟨rfl, rfl, by simpa [e] using h.symm⟩)
    | true => exact .inr (.inr ⟨rfl, rfl, consume_cases (by simpa [e] using h)⟩)

/-! ### The invariant -/

/-- The invariant speaks of these registers and the configuration only. -/
theorem State.Inv.congr {s t : State} (h : s.Inv) (cfg : t.cfg = s.cfg)
    (regs : { t.regs with
      timer := s.regs.timer, kp := s.regs.kp, ki := s.regs.ki, kd := s.regs.kd, dir := s.regs.dir
      duty := s.regs.duty } = s.regs) : t.Inv := by
  obtain ⟨_, ⟨⟩, _, _, _, _, _, _, _⟩ := s
  obtain ⟨_, ⟨⟩, _, _, _, _, _, _, _⟩ := t
  simp only [Regs.mk.injEq, true_and] at regs cfg
  subst cfg
  obtain ⟨rfl, rfl, rfl, rfl, rfl, rfl, rfl, rfl, rfl, rfl, rfl, rfl, rfl, rfl⟩ := regs
  obtain ⟨a, b, c, d, e, f, g, i, j, k, l, m, n⟩ := h
  exact ⟨a, b, c, d, e, f, g, i, j, k, l, m, n⟩

end Sys2Proof.Machine
end

