-- ==== Sys2Proof/Laws/Cycle.lean ====
section
/-! SUPPORT. What one clock cycle can do, said once. -/

namespace Sys2Proof.Machine

@[simp] theorem andThen_next (s : State) (f : State → Host.Outcome State Fault Refusal) :
    andThen (.next s) f = f s := rfl

@[simp] theorem andThen_refused (r : Refusal) (f : State → Host.Outcome State Fault Refusal) :
    andThen (.refused r) f = .refused r := rfl

/-- A sequence answers a state exactly when its first part does and its second part does on that state. -/
theorem andThen_eq_next {o : Host.Outcome State Fault Refusal} {f : State → Host.Outcome State Fault Refusal}
    {t : State} : andThen o f = .next t ↔ ∃ s, o = .next s ∧ f s = .next t := by
  cases o <;> simp [andThen]

theorem andThen_assoc (o : Host.Outcome State Fault Refusal) (f g : State → Host.Outcome State Fault Refusal) :
    andThen (andThen o f) g = andThen o fun s => andThen (f s) g := by cases o <;> rfl

@[simp] theorem runAll_nil (s : State) : runAll [] s = .next s := rfl

theorem runAll_cons (i : Instr) (rest : List Instr) (s : State) :
    runAll (i :: rest) s = andThen (exec i s) (runAll rest) := rfl

@[simp] theorem runAll_singleton (i : Instr) (s : State) : runAll [i] s = exec i s := by
  rw [runAll_cons]; cases exec i s <;> rfl

/-- The operations of a cycle: the tick if the pin is high, the Hall pins, the command if there is one
(43_dispatcher.md R115). -/
theorem cycleOperations_eq (p : Pins) : cycleOperations p =
    (if p.tick then [.tick] else []) ++ .hall p.hallIn :: (if p.cmdValid then [decodeCommand p.cmd] else []) := by
  unfold cycleOperations portWords
  cases p.tick <;> cases p.cmdValid <;> rfl

/-- The state after the tick of a cycle. -/
def afterTick (p : Pins) (s : State) : State := if p.tick then countTick s else s

/-- The state after the tick and the Hall pins of a cycle. -/
def afterHall (p : Pins) (s : State) : State :=
  if p.hallIn = s.regs.hallprev then afterTick p s else hallEvent p.hallIn (afterTick p s)

/-- What the command of a cycle does. -/
def commandPart (p : Pins) (s : State) : Host.Outcome State Fault Refusal :=
  if p.cmdValid then exec (decodeCommand p.cmd) s else .next s

@[simp] theorem afterTick_hallprev (p : Pins) (s : State) : (afterTick p s).regs.hallprev = s.regs.hallprev := by
  unfold afterTick; split <;> rfl

theorem runAll_cycleOperations (p : Pins) (s : State) :
    runAll (cycleOperations p) s = commandPart p (afterHall p s) := by
  have hall : exec (.hall p.hallIn) (afterTick p s) = .next (afterHall p s) := by
    simp only [exec, execHall, afterHall, afterTick_hallprev]; split <;> rfl
  have tail : runAll (.hall p.hallIn :: (if p.cmdValid then [decodeCommand p.cmd] else [])) (afterTick p s)
      = commandPart p (afterHall p s) := by
    rw [runAll_cons, hall, andThen_next, commandPart]
    cases p.cmdValid <;> simp
  rw [cycleOperations_eq, ← tail]
  cases e : p.tick <;> simp [afterTick, e, runAll_cons, exec, execTick]

theorem clockEdge_reset {p : Pins} (h : p.rst = true) (s : State) :
    clockEdge p s = .next (resetEdge p.hallIn s) := by rw [clockEdge, if_pos h]

theorem clockEdge_cycle {p : Pins} (h : p.rst = false) (s : State) :
    clockEdge p s = andThen (commandPart p (afterHall p s)) fun t => .next (setHallPrev p.hallIn t) := by
  rw [clockEdge, if_neg (by simp [h]), runAll_cycleOperations]

/-- Everything a step that completes can have done (30_encoding.md R48, 43_dispatcher.md R115). -/
theorem step_cases {s t : State} (h : step s = .next t) :
    ((pinsNow s).rst = true ∧ t = resetEdge (pinsNow s).hallIn (beginCycle s))
    ∨ ((pinsNow s).rst = false ∧ ∃ u, commandPart (pinsNow s) (afterHall (pinsNow s) (beginCycle s)) = .next u
        ∧ t = setHallPrev (pinsNow s).hallIn u) := by
  unfold step at h
  cases e : (pinsNow s).rst with
  | true =>
    rw [clockEdge_reset e] at h
    exact .inl ⟨rfl, by simpa using h.symm⟩
  | false =>
    rw [clockEdge_cycle e] at h
    obtain ⟨u, hu, ht⟩ := andThen_eq_next.mp h
    exact .inr ⟨rfl, u, hu, by simpa using ht.symm⟩

/-- What `afterHall` leaves in each field: the tick is counted first, and the event sees it. -/
theorem afterHall_of_ne {p : Pins} {s : State} (h : p.hallIn ≠ s.regs.hallprev) :
    afterHall p s = hallEvent p.hallIn (afterTick p s) := by rw [afterHall, if_neg h]

theorem afterHall_of_eq {p : Pins} {s : State} (h : p.hallIn = s.regs.hallprev) :
    afterHall p s = afterTick p s := by rw [afterHall, if_pos h]

@[simp] theorem afterTick_regs (p : Pins) (s : State) :
    (afterTick p s).regs = { s.regs with timer := s.regs.timer + tickCount p } := by
  unfold afterTick tickCount; split
  · rfl
  · simp

@[simp] theorem afterTick_cfg (p : Pins) (s : State) : (afterTick p s).cfg = s.cfg := by
  unfold afterTick; split <;> rfl

@[simp] theorem hallEvent_cfg (h : Hall) (s : State) : (hallEvent h s).cfg = s.cfg := rfl

/-- The registers after a `HALL` event (43_dispatcher.md R111). -/
@[simp] theorem hallEvent_regs (h : Hall) (s : State) : (hallEvent h s).regs = { s.regs with
    tickSum := s.regs.tickSum + s.regs.timer
    evCnt := s.regs.evCnt + 1
    timer := 0
    duty := (driveResult s.cfg.commTable h s.regs.dir s.regs.torque).duty
    ind := (driveResult s.cfg.commTable h s.regs.dir s.regs.torque).ind
    secinv := (driveResult s.cfg.commTable h s.regs.dir s.regs.torque).inv
    ready := true
    hallprev := h } := rfl

/-- A command word decodes to one of the eight command rows (30_encoding.md R60). -/
theorem decodeCommand_cases (c : CommandWord) :
    (opField c = 0#4 ∧ decodeCommand c = .nop)
    ∨ (opField c = 1#4 ∧ ∃ kp ki kd, decodeCommand c = .init kp ki kd)
    ∨ (opField c = 2#4 ∧ ∃ kp ki kd, decodeCommand c = .retune kp ki kd)
    ∨ (opField c = 3#4 ∧ ∃ target dir, decodeCommand c = .step target dir (c.getLsbD 33))
    ∨ (opField c = 4#4 ∧ decodeCommand c = .force (c.extractLsb' 0 16) (c.extractLsb' 16 16)
        (c.extractLsb' 32 16) (c.extractLsb' 48 16) (c.extractLsb' 64 16) (c.extractLsb' 80 16))
    ∨ (opField c = 5#4 ∧ decodeCommand c = .reserved5)
    ∨ ((opField c = 6#4 ∨ opField c = 7#4) ∧ decodeCommand c = .reserved67 (opField c))
    ∨ (8 ≤ (opField c).toNat ∧ decodeCommand c = .reserved8F (opField c)) := by
  have en : decide (c.extractLsb' 33 1 = 1#1) = c.getLsbD 33 := by
    rw [Bool.eq_iff_iff, decide_eq_true_iff]
    constructor
    · intro h; have := congrArg (·.getLsbD 0) h; simpa using this
    · intro h; ext i hi; have : i = 0 := by omega
      subst this; simpa using h
  unfold decodeCommand
  generalize opField c = op
  have : op = 0#4 ∨ op = 1#4 ∨ op = 2#4 ∨ op = 3#4 ∨ op = 4#4 ∨ op = 5#4 ∨ op = 6#4 ∨ op = 7#4 ∨ 8 ≤ op.toNat := by
    revert op; decide
  rcases this with h | h | h | h | h | h | h | h | h
  · subst h; exact .inl ⟨rfl, rfl⟩
  · subst h; exact .inr (.inl ⟨rfl, _, _, _, rfl⟩)
  · subst h; exact .inr (.inr (.inl ⟨rfl, _, _, _, rfl⟩))
  · subst h; exact .inr (.inr (.inr (.inl ⟨rfl, _, _, by rw [← en]; rfl⟩)))
  · subst h; exact .inr (.inr (.inr (.inr (.inl ⟨rfl, rfl⟩))))
  · subst h; exact .inr (.inr (.inr (.inr (.inr (.inl ⟨rfl, rfl⟩)))))
  · subst h; exact .inr (.inr (.inr (.inr (.inr (.inr (.inl ⟨.inl rfl, rfl⟩))))))
  · subst h; exact .inr (.inr (.inr (.inr (.inr (.inr (.inl ⟨.inr rfl, rfl⟩))))))
  · refine .inr (.inr (.inr (.inr (.inr (.inr (.inr ⟨h, ?_⟩))))))
    split <;> simp_all

/-- The opcode of a cycle's command (30_encoding.md R49). -/
theorem commandOp_eq_some {p : Pins} {op : BitVec 4} :
    commandOp p = some op ↔ p.rst = false ∧ p.cmdValid = true ∧ opField p.cmd = op := by
  unfold commandOp; split <;> simp_all

theorem carriesEnabledStep_eq_true {p : Pins} : carriesEnabledStep p = true ↔
    p.rst = false ∧ p.cmdValid = true ∧ opField p.cmd = 3#4 ∧ p.cmd.getLsbD 33 = true := by
  unfold carriesEnabledStep; rw [Bool.and_eq_true, decide_eq_true_iff, commandOp_eq_some]; tauto

/-- Everything the command of a cycle can have done, by its opcode (30_encoding.md R60). -/
theorem commandPart_cases {p : Pins} {s u : State} (h : commandPart p s = .next u) :
    (p.cmdValid = false ∧ u = s)
    ∨ (p.cmdValid = true ∧ opField p.cmd = 0#4 ∧ u = s)
    ∨ (p.cmdValid = true ∧ opField p.cmd = 1#4 ∧
        ∃ kp ki kd, u = setGains kp ki kd { s with regs := Regs.reset s.regs.hallprev })
    ∨ (p.cmdValid = true ∧ opField p.cmd = 2#4 ∧ ∃ kp ki kd, u = setGains kp ki kd s)
    ∨ (p.cmdValid = true ∧ opField p.cmd = 3#4 ∧
        ∃ target dir, execStep target dir (p.cmd.getLsbD 33) s = .next u)
    ∨ (p.cmdValid = true ∧ opField p.cmd = 4#4 ∧
        u = writeDuty ⟨p.cmd.extractLsb' 0 16, p.cmd.extractLsb' 16 16, p.cmd.extractLsb' 32 16,
          p.cmd.extractLsb' 48 16, p.cmd.extractLsb' 64 16, p.cmd.extractLsb' 80 16⟩ s)
    ∨ (p.cmdValid = true ∧ 5 ≤ (opField p.cmd).toNat ∧ u = raiseCmdErr s) := by
  unfold commandPart at h
  cases v : p.cmdValid
  · simp [v] at h; simp [h]
  · rw [v, if_pos rfl] at h
    rcases decodeCommand_cases p.cmd with
      ⟨o, e⟩ | ⟨o, _, _, _, e⟩ | ⟨o, _, _, _, e⟩ | ⟨o, _, _, e⟩ | ⟨o, e⟩ | ⟨o, e⟩ | ⟨o, e⟩ | ⟨o, e⟩ <;> rw [e] at h
    · cases h; simp [o]
    · cases h; simp [o]; exact ⟨_, _, _, rfl⟩
    · cases h; simp [o]; exact ⟨_, _, _, rfl⟩
    · exact .inr (.inr (.inr (.inr (.inl ⟨rfl, o, _, _, h⟩))))
    · cases h; simp [o]
    · cases h; simp [o]
    · cases h; rcases o with o | o <;> simp [o]
    · cases h; exact .inr (.inr (.inr (.inr (.inr (.inr ⟨rfl, by omega, rfl⟩)))))

/-- The tick and the Hall pins of a cycle leave everything but the registers and the drive wires alone. -/
theorem afterHall_frame (p : Pins) (s : State) :
    (afterHall p s).cfg = s.cfg ∧ (afterHall p s).tlm = s.tlm ∧ (afterHall p s).telemetry = s.telemetry
    ∧ (afterHall p s).cmdErr = s.cmdErr ∧ (afterHall p s).inputs = s.inputs ∧ (afterHall p s).cycle = s.cycle := by
  unfold afterHall afterTick; split <;> split <;> simp [hallEvent]

theorem afterHall_ready (p : Pins) (s : State) :
    (afterHall p s).regs.ready = (s.regs.ready || (p.hallIn != s.regs.hallprev)) := by
  unfold afterHall; split <;> rename_i h <;> simp [h]

/-- What the tick and the Hall pins of a cycle leave in the timer and the accumulators (43_dispatcher.md R110, R112). -/
theorem afterHall_counts (p : Pins) (s : State) (r : p.rst = false) :
    (carriesHall s p = true →
      (afterHall p (beginCycle s)).regs.timer = 0
      ∧ (afterHall p (beginCycle s)).regs.tickSum = s.regs.tickSum + (s.regs.timer + tickCount p)
      ∧ (afterHall p (beginCycle s)).regs.evCnt = s.regs.evCnt + 1)
    ∧ (carriesHall s p = false →
      (afterHall p (beginCycle s)).regs.timer = s.regs.timer + tickCount p
      ∧ (afterHall p (beginCycle s)).regs.tickSum = s.regs.tickSum
      ∧ (afterHall p (beginCycle s)).regs.evCnt = s.regs.evCnt) := by
  unfold carriesHall afterHall
  constructor <;> intro h <;> simp [r] at h <;> simp [h]

end Sys2Proof.Machine
end

