-- ==== Sys2Proof/Laws/Decode.lean ====
section
/-! SUPPORT. The fields of an encoded command word, read back one at a time (30_encoding.md R55 to R58): the field at a
place is the operand the encoder put there. -/

namespace Sys2Proof

theorem direction_ofBit_bit (d : Direction) : Direction.ofBit d.bit = d := by cases d <;> rfl

theorem opField_encodeGains (op : BitVec 4) (kp ki kd : Gain) :
    opField (encodeGains op kp ki kd) = op := by
  change BitVec.extractLsb' 96 4 (op ++ kp ++ ki ++ kd) = op
  simp (disch := omega) only [BitVec.extractLsb'_append_eq_of_le]
  exact BitVec.extractLsb'_eq_self

theorem kp_encodeGains (op : BitVec 4) (kp ki kd : Gain) :
    (encodeGains op kp ki kd).extractLsb' 64 32 = kp := by
  change BitVec.extractLsb' 64 32 (op ++ kp ++ ki ++ kd) = kp
  simp (disch := omega) only [BitVec.extractLsb'_append_eq_of_le, BitVec.extractLsb'_append_eq_of_add_le]
  exact BitVec.extractLsb'_eq_self

theorem ki_encodeGains (op : BitVec 4) (kp ki kd : Gain) :
    (encodeGains op kp ki kd).extractLsb' 32 32 = ki := by
  change BitVec.extractLsb' 32 32 (op ++ kp ++ ki ++ kd) = ki
  simp (disch := omega) only [BitVec.extractLsb'_append_eq_of_le, BitVec.extractLsb'_append_eq_of_add_le]
  exact BitVec.extractLsb'_eq_self

theorem kd_encodeGains (op : BitVec 4) (kp ki kd : Gain) :
    (encodeGains op kp ki kd).extractLsb' 0 32 = kd := by
  change BitVec.extractLsb' 0 32 (op ++ kp ++ ki ++ kd) = kd
  simp (disch := omega) only [BitVec.extractLsb'_append_eq_of_add_le]
  exact BitVec.extractLsb'_eq_self

theorem opField_encodeStep (target : U32) (dir : Direction) (en : Bool) :
    opField (encodeStep target dir en) = 3#4 := by
  change BitVec.extractLsb' 96 4 (3#4 ++ 0#62 ++ BitVec.ofBool en ++ dir.bit ++ target) = 3#4
  simp (disch := omega) only [BitVec.extractLsb'_append_eq_of_le]
  exact BitVec.extractLsb'_eq_self

theorem en_encodeStep (target : U32) (dir : Direction) (en : Bool) :
    (encodeStep target dir en).extractLsb' 33 1 = BitVec.ofBool en := by
  change BitVec.extractLsb' 33 1 (3#4 ++ 0#62 ++ BitVec.ofBool en ++ dir.bit ++ target) = BitVec.ofBool en
  simp (disch := omega) only [BitVec.extractLsb'_append_eq_of_le, BitVec.extractLsb'_append_eq_of_add_le]
  exact BitVec.extractLsb'_eq_self

theorem dir_encodeStep (target : U32) (dir : Direction) (en : Bool) :
    (encodeStep target dir en).extractLsb' 32 1 = dir.bit := by
  change BitVec.extractLsb' 32 1 (3#4 ++ 0#62 ++ BitVec.ofBool en ++ dir.bit ++ target) = dir.bit
  simp (disch := omega) only [BitVec.extractLsb'_append_eq_of_le, BitVec.extractLsb'_append_eq_of_add_le]
  exact BitVec.extractLsb'_eq_self

theorem target_encodeStep (target : U32) (dir : Direction) (en : Bool) :
    (encodeStep target dir en).extractLsb' 0 32 = target := by
  change BitVec.extractLsb' 0 32 (3#4 ++ 0#62 ++ BitVec.ofBool en ++ dir.bit ++ target) = target
  simp (disch := omega) only [BitVec.extractLsb'_append_eq_of_add_le]
  exact BitVec.extractLsb'_eq_self

theorem opField_encodeForce (d0 d1 d2 d3 d4 d5 : U16) :
    opField (encodeForce d0 d1 d2 d3 d4 d5) = 4#4 := by
  change BitVec.extractLsb' 96 4 (4#4 ++ d5 ++ d4 ++ d3 ++ d2 ++ d1 ++ d0) = 4#4
  simp (disch := omega) only [BitVec.extractLsb'_append_eq_of_le]
  exact BitVec.extractLsb'_eq_self

theorem d0_encodeForce (d0 d1 d2 d3 d4 d5 : U16) :
    (encodeForce d0 d1 d2 d3 d4 d5).extractLsb' 0 16 = d0 := by
  change BitVec.extractLsb' 0 16 (4#4 ++ d5 ++ d4 ++ d3 ++ d2 ++ d1 ++ d0) = d0
  simp (disch := omega) only [BitVec.extractLsb'_append_eq_of_add_le]
  exact BitVec.extractLsb'_eq_self

theorem d1_encodeForce (d0 d1 d2 d3 d4 d5 : U16) :
    (encodeForce d0 d1 d2 d3 d4 d5).extractLsb' 16 16 = d1 := by
  change BitVec.extractLsb' 16 16 (4#4 ++ d5 ++ d4 ++ d3 ++ d2 ++ d1 ++ d0) = d1
  simp (disch := omega) only [BitVec.extractLsb'_append_eq_of_le, BitVec.extractLsb'_append_eq_of_add_le]
  exact BitVec.extractLsb'_eq_self

theorem d2_encodeForce (d0 d1 d2 d3 d4 d5 : U16) :
    (encodeForce d0 d1 d2 d3 d4 d5).extractLsb' 32 16 = d2 := by
  change BitVec.extractLsb' 32 16 (4#4 ++ d5 ++ d4 ++ d3 ++ d2 ++ d1 ++ d0) = d2
  simp (disch := omega) only [BitVec.extractLsb'_append_eq_of_le, BitVec.extractLsb'_append_eq_of_add_le]
  exact BitVec.extractLsb'_eq_self

theorem d3_encodeForce (d0 d1 d2 d3 d4 d5 : U16) :
    (encodeForce d0 d1 d2 d3 d4 d5).extractLsb' 48 16 = d3 := by
  change BitVec.extractLsb' 48 16 (4#4 ++ d5 ++ d4 ++ d3 ++ d2 ++ d1 ++ d0) = d3
  simp (disch := omega) only [BitVec.extractLsb'_append_eq_of_le, BitVec.extractLsb'_append_eq_of_add_le]
  exact BitVec.extractLsb'_eq_self

theorem d4_encodeForce (d0 d1 d2 d3 d4 d5 : U16) :
    (encodeForce d0 d1 d2 d3 d4 d5).extractLsb' 64 16 = d4 := by
  change BitVec.extractLsb' 64 16 (4#4 ++ d5 ++ d4 ++ d3 ++ d2 ++ d1 ++ d0) = d4
  simp (disch := omega) only [BitVec.extractLsb'_append_eq_of_le, BitVec.extractLsb'_append_eq_of_add_le]
  exact BitVec.extractLsb'_eq_self

theorem d5_encodeForce (d0 d1 d2 d3 d4 d5 : U16) :
    (encodeForce d0 d1 d2 d3 d4 d5).extractLsb' 80 16 = d5 := by
  change BitVec.extractLsb' 80 16 (4#4 ++ d5 ++ d4 ++ d3 ++ d2 ++ d1 ++ d0) = d5
  simp (disch := omega) only [BitVec.extractLsb'_append_eq_of_le, BitVec.extractLsb'_append_eq_of_add_le]
  exact BitVec.extractLsb'_eq_self

theorem opField_encodeNone (op : BitVec 4) :
    opField (encodeNone op) = op := by
  change BitVec.extractLsb' 96 4 (op ++ 0#96) = op
  simp (disch := omega) only [BitVec.extractLsb'_append_eq_of_le]
  exact BitVec.extractLsb'_eq_self

/-- A command word is its opcode above its payload (30_encoding.md R55). -/
theorem command_eq_append (c : CommandWord) : c = (opField c ++ c.extractLsb' 0 96 : BitVec (4 + 96)) := by
  apply BitVec.eq_of_getLsbD_eq
  intro i hi
  rw [BitVec.getLsbD_append]
  by_cases h : i < 96
  · rw [if_pos h]; simp [h]
  · rw [if_neg h]
    change i < 100 at hi
    have e : 96 + (i - 96) = i := by omega
    simp [opField, e]; omega

/-- A row whose mask and value lie in the opcode field covers a word by its opcode alone (30_encoding.md R60). -/
theorem covers_iff_opField {row : OpcodeRow} {v m : BitVec 4} (hm : row.mask = (m ++ 0#96 : BitVec (4 + 96)))
    (hv : row.value = (v ++ 0#96 : BitVec (4 + 96))) (c : CommandWord) :
    row.covers c = true ↔ opField c &&& m = v := by
  have e : c &&& row.mask = ((opField c &&& m) ++ 0#96 : BitVec (4 + 96)) := by
    conv_lhs => rw [command_eq_append c, hm]
    change ((opField c ++ BitVec.extractLsb' 0 96 c : BitVec (4 + 96)) &&& (m ++ 0#96)) = _
    rw [BitVec.and_append]; simp
  unfold OpcodeRow.covers
  rw [decide_eq_true_iff, e, hv]
  constructor
  · intro h
    have h := congrArg (BitVec.extractLsb' 96 4) h
    rw [BitVec.extractLsb'_append_eq_of_le (by omega), BitVec.extractLsb'_append_eq_of_le (by omega)] at h
    simpa using h
  · rintro rfl; rfl

end Sys2Proof
end

