-- ==== Sys2Proof/Laws/PerInstr.lean ====
section
/-! SUPPORT. The statements made per instruction: decoding gives back what was encoded. -/

namespace Sys2Proof.Laws.RoundTrip

/-- If the instruction is well-formed and has a port word, that word decodes to it (30_encoding.md R50 to R62). -/
def Statement (i : Instr) : Prop := i.wf = true → ∀ w, encode i = some w → decode w = .ok i

/-- For an instruction whose word is a command it is enough that the word decodes to it. -/
theorem of_command {i : Instr} {c : CommandWord} (e : encode i = some (.command c))
    (d : i.wf = true → decodeCommand c = i) : Statement i := by
  intro wf w h
  rw [e] at h
  cases h
  rw [decode, d wf]

/-- An instruction without a word has nothing to decode. -/
theorem of_none {i : Instr} (e : encode i = none) : Statement i := by
  intro _ w h
  rw [e] at h
  cases h

theorem nop : Statement .nop :=
  of_command rfl fun _ => by simp [decodeCommand, opField_encodeNone]

theorem init (kp ki kd : Gain) : Statement (.init kp ki kd) :=
  of_command rfl fun _ => by
    simp [decodeCommand, opField_encodeGains, kp_encodeGains, ki_encodeGains, kd_encodeGains]

theorem retune (kp ki kd : Gain) : Statement (.retune kp ki kd) :=
  of_command rfl fun _ => by
    simp [decodeCommand, opField_encodeGains, kp_encodeGains, ki_encodeGains, kd_encodeGains]

theorem step (target : U32) (dir : Direction) (en : Bool) : Statement (.step target dir en) :=
  of_command rfl fun _ => by
    cases en <;>
      simp [decodeCommand, opField_encodeStep, en_encodeStep, dir_encodeStep, target_encodeStep, direction_ofBit_bit]

theorem force (d0 d1 d2 d3 d4 d5 : U16) : Statement (.force d0 d1 d2 d3 d4 d5) :=
  of_command rfl fun _ => by
    simp [decodeCommand, opField_encodeForce, d0_encodeForce, d1_encodeForce, d2_encodeForce, d3_encodeForce,
      d4_encodeForce, d5_encodeForce]

theorem reserved5 : Statement .reserved5 :=
  of_command rfl fun _ => by simp [decodeCommand, opField_encodeNone]

theorem reserved67 (op : BitVec 4) : Statement (.reserved67 op) :=
  of_command rfl fun wf => by
    revert op; simp only [decodeCommand, opField_encodeNone]; decide

theorem reserved8F (op : BitVec 4) : Statement (.reserved8F op) :=
  of_command rfl fun wf => by
    revert op; simp only [decodeCommand, opField_encodeNone]; decide

theorem tick : Statement .tick := by
  intro _ w h; cases h; rfl

theorem hall (h : Hall) : Statement (.hall h) := by
  intro _ w e; cases e; rfl

theorem drive (h : Hall) (d : Direction) (t : U16) : Statement (.drive h d t) := of_none rfl

theorem estimate (ts ec k : U32) : Statement (.estimate ts ec k) := of_none rfl

theorem pidstep (target measured : U32) : Statement (.pidstep target measured) := of_none rfl

end Sys2Proof.Laws.RoundTrip
end

