-- ==== Sys2Proof/Machine/Trace.lean ====
section
/-! DEFINITION. The trace syntax (30_encoding.md R64, R65): a run written as lines, and the pins each line presents. -/

namespace Sys2Proof.Machine

/-- One line of a trace (30_encoding.md R64): a reset cycle, or a cycle that carries any of `TICK`, `HALL h` and a
command word. -/
inductive TraceLine where
  | reset (h : Hall)
  | cycle (tick : Bool) (hall : Option Hall) (cmd : Option CommandWord)
  deriving DecidableEq, Repr

/-- The Hall inputs while a line is presented, when they stood at `level` before. -/
def lineLevel (level : Hall) : TraceLine → Hall
  | .reset h => h
  | .cycle _ hall _ => hall.getD level

/-- A `HALL` line must change the pattern: "an unchanged pattern is not an event" (30_encoding.md R64). -/
def lineWf (level : Hall) : TraceLine → Bool
  | .reset _ => true
  | .cycle _ hall _ => hall ≠ some level

/-- The pins of one line. -/
def linePins (level : Hall) : TraceLine → Pins
  | .reset h => { idlePins h with rst := true }
  | .cycle tick hall cmd => ⟨false, tick, hall.getD level, cmd.isSome, cmd.getD 0⟩

/-- The pins of a trace, line by line, from the Hall level before it. -/
def tracePins : Hall → List TraceLine → List Pins
  | _, [] => []
  | level, l :: rest => linePins level l :: tracePins (lineLevel level l) rest

/-- The line `TICK`. -/
def tickLine : TraceLine := .cycle true none none

/-- The line `HALL h`. -/
def hallLine (h : Hall) : TraceLine := .cycle false (some h) none

/-- A line with one command word. -/
def commandLine (c : CommandWord) : TraceLine := .cycle false none (some c)

/-- The pseudo-operation `IDLE` (30_encoding.md R65). -/
def idleLine : TraceLine := .cycle false none none

/-- The pseudo-operation `TICK n`: `n` lines `TICK` (30_encoding.md R65). -/
def ticksLines (n : Nat) : List TraceLine := List.replicate n tickLine

/-- The pseudo-operation `SPIN h, n`: `TICK n`, then `HALL h` (30_encoding.md R65). -/
def spinLines (h : Hall) (n : Nat) : List TraceLine := ticksLines n ++ [hallLine h]

/-- The pseudo-operation `STEP target, dir`: `STEP target, dir, 1` (30_encoding.md R65). -/
def stepLine (target : U32) (dir : Direction) : TraceLine := commandLine (encodeStep target dir true)

/-- Place a trace behind the cycles already placed; the Hall inputs stand at `HALLPREV` or at the last level placed. -/
def placeTrace (lines : List TraceLine) (s : State) : State :=
  { s with inputs := s.inputs ++ tracePins ((s.inputs.getLast?.map Pins.hallIn).getD s.regs.hallprev) lines }

end Sys2Proof.Machine
end

