-- ==== Sys2Proof/Tests/Slice0.lean ====
section
/-! SUPPORT. The model's own tests. Expected results are copied from 95_test_vectors.md or worked out by hand from the
encodings of 30_encoding.md; a witness shows a state and operands that meet the hypotheses of the obligation it is named
after. -/

namespace Sys2Proof.Machine.Tests

/-- An outcome is a next state with the property. -/
def reaches (o : Host.Outcome State Fault Refusal) (p : State → Bool) : Bool :=
  match o with
  | .next t => p t
  | .fault _ => false
  | .refused _ => false

theorem reaches_iff {o : Host.Outcome State Fault Refusal} {p : State → Bool} :
    reaches o p = true ↔ ∃ t, o = .next t ∧ p t = true := by cases o <;> simp [reaches]

/-- A core of the configuration `REF` right after a reset with the Hall level `h`. -/
def atRest (h : Hall) : State := State.resetWith referenceConfig h

/-- The same core with other register contents. -/
def holding (r : Regs) : State := { atRest 0 with regs := r }

/-- A core in the middle of a run: a measurement pending, a controller that has run, pattern 6 driven. -/
def running : State := holding { Regs.reset 6 with
  kp := 65536, perr := 100, integ := 100, out := 100, torque := 10, speed := 40
  tickSum := 1312500, evCnt := 1, ready := true, ind := 6, duty := ⟨0, 10, 10, 0, 0, 0⟩ }

/-- The next cycle has these pins. -/
def presenting (p : Pins) (s : State) : State := { s with inputs := p :: s.inputs }

def resetPins (h : Hall) : Pins := { idlePins h with rst := true }

def commandPins (level : Hall) (c : CommandWord) : Pins := { idlePins level with cmdValid := true, cmd := c }

/-! ### What `WellFormed` refuses and accepts -/

theorem test_wf_refuses_reserved67 : Instr.wf (.reserved67 5) = false ∧ Instr.wf (.reserved67 8) = false := by decide

theorem test_wf_accepts_reserved67 : Instr.wf (.reserved67 6) = true ∧ Instr.wf (.reserved67 7) = true := by decide

theorem test_wf_refuses_reserved8F : Instr.wf (.reserved8F 7) = false ∧ Instr.wf (.reserved8F 0) = false := by decide

theorem test_wf_accepts_reserved8F : Instr.wf (.reserved8F 8) = true ∧ Instr.wf (.reserved8F 15) = true := by decide

theorem test_wf_accepts_force : Instr.wf (.force 65535 65535 65535 65535 65535 65535) = true := by decide

/-- 00_scope.md R10 (a), (b), (c), one bad configuration each. -/
theorem test_wf_refuses_max_duty_zero :
    Config.inRange { referenceConfig with maxDuty := 0 } = false
    ∧ Config.wf { referenceConfig with maxDuty := 0, outputMax := 0 } = false := by decide

theorem test_wf_refuses_torque_above_max_duty :
    Config.torqueInRange { referenceConfig with outputMax := 10010 } = false
    ∧ Config.torqueInRange { referenceConfig with outputMax := 10009 } = true
    ∧ Config.wf { referenceConfig with outputMax := 10010 } = false := by decide

theorem test_wf_refuses_short_circuit_entry :
    PhasePair.wf ⟨.b, .b⟩ = false
    ∧ SectorTable.wf { defaultCw with s4 := ⟨.b, .b⟩ } = false
    ∧ CommTable.wf { defaultTable with ccw := { defaultCcw with s6 := ⟨.c, .c⟩ } } = false
    ∧ Config.wf { referenceConfig with commTable := { defaultTable with cw := { defaultCw with s1 := ⟨.a, .a⟩ } } }
        = false := by decide

theorem test_wf_accepts_reference : Config.wf referenceConfig = true := by decide

/-! ### Decoding: words written out bit by bit -/

theorem test_decode_nop : decode (.command 0x0FFFFFFFFFFFFFFFFFFFFFFFF#100) = .ok .nop := by decide

/-- 95_test_vectors.md 2.7: `INIT −1, −2147483648, 2147483647`. -/
theorem test_decode_init : decode (.command 0x1FFFFFFFF800000007FFFFFFF#100) =
    .ok (.init 0xFFFFFFFF 0x80000000 0x7FFFFFFF) := by decide

/-- 95_test_vectors.md 2.7: `RETUNE 131072, −65536, 3`. -/
theorem test_decode_retune : decode (.command 0x200020000FFFF000000000003#100) =
    .ok (.retune 131072 0xFFFF0000 3) := by decide

/-- 95_test_vectors.md 2.7: `STEP 60000, CCW, 1`, and `STEP 500, CCW, 1` with all reserved bits set. -/
theorem test_decode_step :
    decode (.command 0x300000000000000030000EA60#100) = .ok (.step 60000 .ccw true)
    ∧ decode (.command 0x3FFFFFFFFFFFFFFFF000001F4#100) = .ok (.step 500 .ccw true)
    ∧ decode (.command 0x3000000000000000100000064#100) = .ok (.step 100 .ccw false)
    ∧ decode (.command 0x3000000000000000200000064#100) = .ok (.step 100 .cw true) := by decide

/-- 95_test_vectors.md 2.7: `FORCE 1, 2, 3, 4, 5, 6`. -/
theorem test_decode_force : decode (.command 0x4000600050004000300020001#100) = .ok (.force 1 2 3 4 5 6) := by decide

theorem test_decode_reserved :
    decode (.command 0x5000000000000000000000001#100) = .ok .reserved5
    ∧ decode (.command 0x6000000000000000000000000#100) = .ok (.reserved67 6)
    ∧ decode (.command 0x7000000000000000000000000#100) = .ok (.reserved67 7)
    ∧ decode (.command 0x8000000000000000000000000#100) = .ok (.reserved8F 8)
    ∧ decode (.command 0xF000000000000000000000000#100) = .ok (.reserved8F 15) := by decide

theorem test_decode_events :
    decode (.tickPin 1#1) = .ok .tick ∧ decode (.tickPin 0#1) = .error .tickLow
    ∧ decode (.hallPins 0b100#3) = .ok (.hall 4) := by decide

/-- The encoder writes the words of 95_test_vectors.md 2.7. -/
theorem test_encode :
    encode (.init 65536 6553600 0) = some (.command 0x1000100000064000000000000#100)
    ∧ encode (.retune 131072 0 0) = some (.command 0x2000200000000000000000000#100)
    ∧ encode (.step 4294967295 .ccw true) = some (.command 0x30000000000000003FFFFFFFF#100)
    ∧ encode (.force 500 0 0 500 0 0) = some (.command 0x40000000001F40000000001F4#100)
    ∧ encode (.drive 1 .cw 0) = none ∧ encode (.estimate 0 0 0) = none ∧ encode (.pidstep 0 0) = none := by decide

/-- Every row of the opcode table that has a word, as `decodeTableWord` reads it. -/
theorem test_decode_table :
    decodeTableWord 104 0 = some .nop
    ∧ decodeTableWord 104 0x1000000000000000000000000 = some (.init 0 0 0)
    ∧ decodeTableWord 104 0x2000000000000000000000000 = some (.retune 0 0 0)
    ∧ decodeTableWord 104 0x3000000000000000000000000 = some (.step 0 .cw false)
    ∧ decodeTableWord 104 0x4000000000000000000000000 = some (.force 0 0 0 0 0 0)
    ∧ decodeTableWord 104 0x5000000000000000000000000 = some .reserved5
    ∧ decodeTableWord 104 0x6000000000000000000000000 = some (.reserved67 6)
    ∧ decodeTableWord 104 0x8000000000000000000000000 = some (.reserved8F 8)
    ∧ decodeTableWord 8 1 = some .tick ∧ decodeTableWord 1 1 = some .tick
    ∧ decodeTableWord 8 0 = some (.hall 0) ∧ decodeTableWord 3 1 = some (.hall 1)
    ∧ decodeTableWord 104 (2 ^ 100) = none ∧ decodeTableWord 1 0 = none := by decide

/-! ### One operation each -/

/-- 95_test_vectors.md 2.4 row 2. -/
theorem test_tick_wraps : reaches (exec .tick (holding { Regs.reset 0 with timer := 4294967295 }))
    (fun t => t.regs.timer = 0) = true := by decide

/-- 95_test_vectors.md 2.4 row 3. -/
theorem test_hall : reaches (exec (.hall 3) (holding { Regs.reset 1 with timer := 5000, torque := 300 }))
    (fun t => t.regs = { Regs.reset 3 with
      tickSum := 5000, evCnt := 1, torque := 300, duty := ⟨300, 0, 0, 0, 0, 300⟩, ind := 0b011, ready := true })
    = true := by decide

/-- 95_test_vectors.md 2.4 row 4. -/
theorem test_hall_wraps : reaches
    (exec (.hall 3) (holding { Regs.reset 1 with timer := 10, tickSum := 4294967290, evCnt := 4294967295 }))
    (fun t => t.regs.tickSum = 4 ∧ t.regs.evCnt = 0 ∧ t.regs.timer = 0 ∧ t.regs.ready = true) = true := by decide

/-- 95_test_vectors.md 2.1, rows CW 6 and CCW 3. -/
theorem test_drive :
    reaches (exec (.drive 6 .cw 300) (atRest 0)) (fun t => t.ce = ⟨⟨0, 300, 300, 0, 0, 0⟩, 0b110, false⟩) = true
    ∧ reaches (exec (.drive 3 .ccw 300) (atRest 0)) (fun t => t.ce = ⟨⟨0, 300, 0, 0, 300, 0⟩, 0b011, false⟩) = true := by
  decide

/-- 95_test_vectors.md 2.1, the corners. -/
theorem test_drive_no_clamp :
    reaches (exec (.drive 5 .ccw 65535) (atRest 0)) (fun t => t.ce = ⟨⟨0, 0, 65535, 0, 0, 65535⟩, 0b101, false⟩) = true
    ∧ reaches (exec (.drive 7 .ccw 65535) (atRest 0)) (fun t => t.ce = ⟨⟨0, 0, 0, 0, 0, 0⟩, 0b111, true⟩) = true := by
  decide

/-- 95_test_vectors.md 2.2: `35000 / 6`, then `52500000 / 5833`; and the inner division first. -/
theorem test_estimate :
    reaches (exec (.estimate 35000 6 52500000) (atRest 0)) (fun t => t.se = ⟨.ok, 9000⟩) = true
    ∧ reaches (exec (.estimate 5 2 100) (atRest 0)) (fun t => t.se = ⟨.ok, 50⟩) = true := by decide

/-- 95_test_vectors.md 2.2: both intercepted divisors. -/
theorem test_estimate_zero :
    reaches (exec (.estimate 7 0 52500000) (atRest 0)) (fun t => t.se = ⟨.stalled, 0⟩) = true
    ∧ reaches (exec (.estimate 5 6 52500000) (atRest 0)) (fun t => t.se = ⟨.zeroInterval, 0⟩) = true := by decide

/-- 95_test_vectors.md 2.3 row 8: the floor of −1.5, and both clamps at 0. -/
theorem test_pidstep_floor : reaches
    (exec (.pidstep 0 0) (holding { Regs.reset 0 with kp := 32768, perr := -3 }))
    (fun t => t.regs = { Regs.reset 0 with kp := 32768, sati := true, sato := true }) = true
    ∧ (pidValues referenceConfig { Regs.reset 0 with kp := 32768, perr := -3 } 0 0).raw = -2 := by decide

/-- 95_test_vectors.md 2.3 row 9: the derivative term with a gain that is not a whole number. -/
theorem test_pidstep_derivative : reaches
    (exec (.pidstep 100 40) (holding { Regs.reset 0 with kd := 655, perr := 70 }))
    (fun t => t.regs = { Regs.reset 0 with kd := 655, perr := 60, integ := 70, out := 99, torque := 9 }) = true := by
  decide

/-- 95_test_vectors.md 2.5 row 1. -/
theorem test_step : reaches
    (exec (.step 100 .cw true)
      (holding { Regs.reset 2 with kp := 65536, perr := 100, ready := true, tickSum := 1312500, evCnt := 1 }))
    (fun t => t.tlm = some ⟨40, 100⟩ ∧ t.regs = { Regs.reset 2 with
      kp := 65536, speed := 40, perr := 60, integ := 100, out := 100, torque := 10 }) = true := by decide

/-- 95_test_vectors.md 2.5 row 5. -/
theorem test_step_stalled : reaches
    (exec (.step 10 .ccw true)
      (holding { Regs.reset 2 with ready := true, tickSum := 77, out := 55, perr := 5, speed := 9 }))
    (fun t => t.tlm = some ⟨0, 55⟩ ∧ statusWord t.regs = 0x50#7
      ∧ t.regs = { Regs.reset 2 with est := 1, dir := .ccw, out := 55, perr := 5 }) = true := by decide

/-- 95_test_vectors.md 2.5 row 8. -/
theorem test_init : reaches (exec (.init 65536 0 0) running)
    (fun t => t.regs = { Regs.reset 6 with kp := 65536 }) = true := by decide

/-- 95_test_vectors.md 2.5 row 9. -/
theorem test_retune : reaches (exec (.retune 131072 65536000 0) running)
    (fun t => t.regs = { running.regs with kp := 131072, ki := 65536000, kd := 0 }) = true := by decide

/-- 95_test_vectors.md 2.5 row 10. -/
theorem test_nop : reaches (exec .nop running) (fun t => t = running) = true := by decide

/-- 95_test_vectors.md 2.5 row 11, for each of the three rows. -/
theorem test_reserved :
    reaches (exec .reserved5 running) (fun t => t = { running with cmdErr := true }) = true
    ∧ reaches (exec (.reserved67 7) running) (fun t => t = { running with cmdErr := true }) = true
    ∧ reaches (exec (.reserved8F 9) running) (fun t => t = { running with cmdErr := true }) = true := by decide

/-- 95_test_vectors.md 2.6 row 1. -/
theorem test_force : reaches (exec (.force 500 0 0 500 0 0) running)
    (fun t => t = { running with regs := { running.regs with duty := ⟨500, 0, 0, 500, 0, 0⟩ } }) = true := by decide

/-! ### One cycle -/

/-- 95_test_vectors.md 2.5 row 7: a tick, a Hall event and a consume in one cycle. -/
theorem test_cycle_consume_sees_event : reaches
    (step (presenting ⟨false, true, 4, true, 0x3000000000000000200000000#100⟩
      (holding { Regs.reset 6 with timer := 9, tickSum := 100, evCnt := 2, ready := true })))
    (fun t => t.regs.speed = 1458333 ∧ t.regs.perr.toInt = -1458333 ∧ t.regs.tickSum = 0 ∧ t.regs.evCnt = 0
      ∧ t.regs.timer = 0 ∧ t.regs.ready = false ∧ t.regs.hallprev = 4 ∧ t.tlm = some ⟨1458333, 0⟩) = true := by decide

/-- 95_test_vectors.md 2.6 row 4: a tick, a Hall event and `FORCE` in one cycle. -/
theorem test_cycle_force_is_later_writer : reaches
    (step (presenting ⟨false, true, 6, true, 0x4000C000B000A000900080007#100⟩
      (holding { Regs.reset 7 with torque := 1000, dir := .ccw, timer := 0, tickSum := 10, evCnt := 1 })))
    (fun t => t.regs.duty = ⟨7, 8, 9, 10, 11, 12⟩ ∧ t.regs.ind = 0b110 ∧ t.regs.tickSum = 11 ∧ t.regs.evCnt = 2)
    = true := by decide

/-- 70_reset_and_hazards.md R154. -/
theorem test_cycle_reset : reaches (step (presenting (resetPins 5) running))
    (fun t => t.regs = Regs.reset 5 ∧ t.telemetry = []) = true := by decide

/-- The first step after reset runs the word placed, whatever the core's configuration. -/
theorem test_fetch_tick : reaches (step (State.reset.withFetchWord 8 1)) (fun t => t.regs.timer = 1) = true := by
  decide

theorem test_fetch_hall : reaches (step (State.reset.withFetchWord 8 0))
    (fun t => t.regs.evCnt = 1 ∧ t.regs.hallprev = 0) = true := by decide

theorem test_fetch_step : reaches
    (step (State.reset.withFetchWord 104 0x3000000000000000300000000)) (fun t => t.regs.dir = .ccw) = true := by decide

/-! ### Outputs and traces -/

/-- 95_test_vectors.md 1: the 15 bytes of the record `(40, 100)`. -/
theorem test_telemetry_line : telemetryLine ⟨40, 100⟩ =
    [0x53, 0x3A, 0x20, 0x34, 0x30, 0x2C, 0x20, 0x45, 0x3A, 0x20, 0x31, 0x30, 0x30, 0x0D, 0x0A] := by decide

/-- 95_test_vectors.md 1: the lengths of the two other records. -/
theorem test_telemetry_lengths :
    (telemetryLine ⟨0, 0⟩).length = 12 ∧ (telemetryLine ⟨4294967295, 10000⟩).length = 25 := by decide

/-- 30_encoding.md R64, R65: the lines `RESET 0b001`, `SPIN 0b011, 2` as pins. -/
theorem test_trace : tracePins 0 (.reset 1 :: spinLines 3 2) =
    [⟨true, false, 1, false, 0⟩, ⟨false, true, 1, false, 0⟩, ⟨false, true, 1, false, 0⟩, ⟨false, false, 3, false, 0⟩]
    ∧ lineWf 1 (hallLine 3) = true ∧ lineWf 1 (hallLine 1) = false := by decide

/-! ### Witnesses: a state and operands that meet the hypotheses of each obligation that has hypotheses -/

/-- A configuration that is not well-formed: a torque quotient can exceed 65535 (42_pid.md R95). -/
def wideConfig : Config := { referenceConfig with outputMax := 0xFFFFFFFF, outputToTorqueScale := 1 }

/-- A proportional controller under that configuration, with the previous error `e`. -/
def wideState (e : S33) : State :=
  { State.resetWith wideConfig 0 with regs := { Regs.reset 0 with kp := 65536, perr := e } }

/-- The cycle of 95_test_vectors.md 2.5 row 7. -/
def tickHallStep : State := presenting ⟨false, true, 4, true, 0x3000000000000000200000000#100⟩ running

/-- `running` with one command word on the port. -/
def runningWith (c : CommandWord) : State := presenting (commandPins 6 c) running

theorem witness_ResetEdgeLoadsResetValues : (pinsNow (presenting (resetPins 5) running)).rst = true := by decide

theorem witness_HallEventCapturesCountsAndDrives : (3 : Hall) ≠ running.regs.hallprev := by decide

theorem witness_EdgeDetectorComparesWithHallPrev :
    (pinsNow (presenting (idlePins 6) running)).rst = false
    ∧ (pinsNow (presenting (idlePins 6) running)).tick = false
    ∧ (pinsNow (presenting (idlePins 6) running)).cmdValid = false
    ∧ (pinsNow (presenting (idlePins 6) running)).hallIn = running.regs.hallprev
    ∧ (pinsNow (presenting (idlePins 2) running)).rst = false
    ∧ (pinsNow (presenting (idlePins 2) running)).tick = false
    ∧ (pinsNow (presenting (idlePins 2) running)).cmdValid = false
    ∧ (pinsNow (presenting (idlePins 2) running)).hallIn ≠ running.regs.hallprev := by decide

/-- The invalid patterns, and the first and the last sector. -/
theorem witness_DriveFollowsTheTable :
    ((0 : Hall) = 0 ∨ (0 : Hall) = 7) ∧ ((7 : Hall) = 0 ∨ (7 : Hall) = 7)
    ∧ sectorNumber .s1 = (1 : Hall).toNat ∧ sectorNumber .s6 = (6 : Hall).toNat := by decide

theorem witness_DriveNeverShootsThrough : running.cfg.commTable.wf = true
    ∧ (1 ≤ (1 : Hall).toNat ∧ (1 : Hall).toNat ≤ 6) ∧ (1 ≤ (6 : Hall).toNat ∧ (6 : Hall).toNat ≤ 6)
    ∧ (atRest 0).cfg.commTable = running.cfg.commTable := by decide

/-- The three cases, the last two at their common boundary. -/
theorem witness_EstimateDividesAverageIntoConstant :
    ((0 : U32) = 0)
    ∧ ((6 : U32) ≠ 0 ∧ (5 : U32).toNat / (6 : U32).toNat = 0)
    ∧ ((6 : U32) ≠ 0 ∧ (6 : U32).toNat / (6 : U32).toNat ≠ 0) := by decide

/-- The average just above, at, and at half of the constant, the average 1, and the constant 0. -/
theorem witness_ValidSpeedRangeAndCorners :
    reaches (exec (.estimate 52500001 1 52500000) running)
      (fun t => t.se.verdict = .ok ∧ (52500000 : Nat) < 52500001 / 1) = true
    ∧ reaches (exec (.estimate 52500000 1 52500000) running) (fun t => t.se.verdict = .ok ∧ t.se.speed ≠ 0) = true
    ∧ reaches (exec (.estimate 26250000 1 52500000) running) (fun t => t.se.verdict = .ok ∧ t.se.speed = 2) = true
    ∧ reaches (exec (.estimate 1 1 52500000) running) (fun t => t.se.verdict = .ok ∧ (1 : Nat) / 1 = 1) = true
    ∧ reaches (exec (.estimate 100 3 0) running) (fun t => t.se.verdict = .ok) = true := by decide

/-- A quotient of 65535 completes, one of 65536 stops. -/
theorem witness_PidStepPerformsTheEightSteps :
    pidTorque wideConfig (pidValues wideConfig (wideState 65535).regs 0 0).out = 65535
    ∧ reaches (exec (.pidstep 0 0) (wideState 65535)) (fun t => t.regs.torque = 65535) = true
    ∧ pidTorque wideConfig (pidValues wideConfig (wideState 65536).regs 0 0).out = 65536
    ∧ reaches (exec (.pidstep 0 0) (wideState 65536)) (fun _ => true) = false := by decide

theorem witness_PidRegistersHoldExactValues :
    (∃ t, exec (.pidstep 100 40) running = .next t) ∧ running.cfg.wf = true := by
  refine ⟨?_, by decide⟩
  obtain ⟨t, h, _⟩ := reaches_iff.mp (show reaches (exec (.pidstep 100 40) running) (fun _ => true) = true by decide)
  exact ⟨t, h⟩

theorem witness_FirstPidStepAfterInitCommandsNothing :
    0 ≤ (655 : Gain).toInt ∧ (40 : U32).toNat ≤ (100 : U32).toNat := by decide

theorem witness_ResetAndInitDifferInGainsAndHallPrev :
    (pinsNow (presenting (resetPins 7) running)).rst = true
    ∧ (atRest 3).regs.kp = 0 ∧ (atRest 3).regs.ki = 0 ∧ (atRest 3).regs.kd = 0 := by decide

theorem witness_IntegralRisesToItsCeilingAndStops : (atRest 3).regs.perr = 0 ∧ (atRest 3).regs.integ = 0
    ∧ (atRest 3).cfg.outputMax.toNat / ((atRest 3).cfg.outputToTorqueScale : Nat) ≤ 65535 := by decide

theorem witness_StepWithNothingPendingLatchesDirection : (atRest 3).regs.ready = false := by decide

/-- No event at all, and a sum one below the count. -/
theorem witness_InvalidMeasurementSkipsTheController :
    ((holding { running.regs with evCnt := 0 }).regs.ready = true
      ∧ (holding { running.regs with evCnt := 0 }).regs.evCnt = 0)
    ∧ ((holding { running.regs with tickSum := 5, evCnt := 6 }).regs.ready = true
      ∧ (5 : U32).toNat < (6 : U32).toNat) := by decide

/-- `running`, and a sum equal to the count. -/
theorem witness_ValidMeasurementRunsTheController :
    (running.regs.ready = true ∧ running.regs.evCnt ≠ 0 ∧ running.regs.evCnt.toNat ≤ running.regs.tickSum.toNat
      ∧ (40 : U32).toNat = running.cfg.clockConstant.toNat / (running.regs.tickSum.toNat / running.regs.evCnt.toNat)
      ∧ running.cfg.outputMax.toNat / (running.cfg.outputToTorqueScale : Nat) ≤ 65535)
    ∧ ((6 : U32).toNat ≤ (6 : U32).toNat
      ∧ (52500000 : U32).toNat = running.cfg.clockConstant.toNat / ((6 : U32).toNat / (6 : U32).toNat)) := by decide

/-- A `STEP` that consumes, one that finds nothing, and one that is not enabled. -/
theorem witness_StepEmitsOneRecordPerConsume :
    reaches (exec (.step 100 .cw true) running) (fun t => t.telemetry = [⟨40, 100⟩]) = true
    ∧ reaches (exec (.step 100 .cw true) (atRest 0)) (fun t => t.telemetry = []) = true
    ∧ reaches (exec (.step 100 .cw false) running) (fun t => t = running) = true := by decide

theorem witness_StepLeavesOutputsTimerAndGains :
    ∃ t, exec (.step 100 .ccw true) running = .next t ∧ t.regs.dir ≠ running.regs.dir := by
  obtain ⟨t, h, p⟩ := reaches_iff.mp (show reaches (exec (.step 100 .ccw true) running)
    (fun t => t.regs.dir ≠ running.regs.dir) = true by decide)
  exact ⟨t, h, of_decide_eq_true p⟩

/-- A cycle that emits a record, and one that does not. -/
theorem witness_TelemetryPortCarriesTheNewValues :
    reaches (step tickHallStep) (fun t => t.tlm.isSome) = true
    ∧ reaches (step (presenting (idlePins 6) running)) (fun t => t.tlm.isNone) = true := by decide

theorem witness_OnlyTheListedOperationsWrite :
    reaches (exec (.force 1 2 3 4 5 6) running) (fun t => t.regs.duty ≠ running.regs.duty) = true
    ∧ Instr.mnemonic (.force 1 2 3 4 5 6) ∉ ["TICK", "HALL", "INIT"] := by decide

theorem witness_CycleRunsTickThenHallThenCommand : (pinsNow tickHallStep).rst = false
    ∧ (pinsNow tickHallStep).tick = true ∧ (pinsNow tickHallStep).hallIn ≠ tickHallStep.regs.hallprev
    ∧ (pinsNow tickHallStep).cmdValid = true := by decide

theorem witness_StepRunsTheDecodedWord :
    (decode (.command 0x3000000000000000200000064#100) = .ok (.step 100 .cw true)
      ∧ pinsNow (runningWith 0x3000000000000000200000064#100)
        = pinsPresenting running.regs.hallprev (.command 0x3000000000000000200000064#100))
    ∧ (decode (.hallPins 3#3) = .ok (.hall 3)
      ∧ pinsNow (presenting (idlePins 3) running) = pinsPresenting running.regs.hallprev (.hallPins 3#3)) := by decide

/-- A command word, a tick, a Hall pattern that `HALLPREV` does not hold, and one that it holds. -/
theorem witness_FetchWordRunsTheTableWord :
    decodeTableWord 104 0x3000000000000000200000064 = some (.step 100 .cw true)
    ∧ decodeTableWord 8 1 = some .tick
    ∧ decodeTableWord 8 5 = some (.hall 5) ∧ running.regs.hallprev ≠ 5
    ∧ decodeTableWord 8 6 = some (.hall 6) ∧ running.regs.hallprev = 6 := by decide

/-- The bounds of the two ranges of reserved opcodes. -/
theorem witness_DecodeInvertsEncode :
    (Instr.wf (.reserved67 7) = true ∧ (encode (.reserved67 7)).isSome = true)
    ∧ (Instr.wf (.reserved8F 8) = true ∧ (encode (.reserved8F 8)).isSome = true)
    ∧ (Instr.wf (.step 500 .ccw true) = true ∧ (encode (.step 500 .ccw true)).isSome = true) := by decide

/-- `NOP`, a reserved opcode and `STEP`, each as two different words. -/
theorem witness_IgnoredBitsDoNotMatter :
    ((0x0000000000000000000000000#100).extractLsb' 96 4 = (0x0FFFFFFFFFFFFFFFFFFFFFFFF#100).extractLsb' 96 4
      ∧ (0x0000000000000000000000000#100).extractLsb' 96 4 = 0#4)
    ∧ ((0x5000000000000000000000000#100).extractLsb' 96 4 = (0x5000000000000000000000001#100).extractLsb' 96 4
      ∧ 5 ≤ ((0x5000000000000000000000000#100).extractLsb' 96 4).toNat)
    ∧ ((0x30000000000000003000001F4#100).extractLsb' 96 4 = 3#4
      ∧ (0x3FFFFFFFFFFFFFFFF000001F4#100).extractLsb' 96 4 = 3#4
      ∧ (0x30000000000000003000001F4#100).extractLsb' 0 34 = (0x3FFFFFFFFFFFFFFFF000001F4#100).extractLsb' 0 34) := by
  decide

/-- Opcode 5, the lowest reserved one, and opcode 4, which is none. -/
theorem witness_ReservedWordDrivesCmdErrOnly :
    ((pinsNow (runningWith 0x5000000000000000000000001#100)).rst = false
      ∧ (pinsNow (runningWith 0x5000000000000000000000001#100)).cmdValid = true
      ∧ 5 ≤ (opField (pinsNow (runningWith 0x5000000000000000000000001#100)).cmd).toNat)
    ∧ reaches (step (runningWith 0x5000000000000000000000001#100)) (fun t => t.cmdErr) = true
    ∧ reaches (step (runningWith 0x4000000000000000000000001#100)) (fun t => !t.cmdErr) = true := by decide

theorem running_inv : running.Inv := by constructor <;> decide

theorem tickHallStep_inv : tickHallStep.Inv := by constructor <;> decide

theorem witness_EveryStepKeepsTheInvariant : ∃ t, tickHallStep.Inv ∧ step tickHallStep = .next t := by
  obtain ⟨t, h, _⟩ := reaches_iff.mp (show reaches (step tickHallStep) (fun _ => true) = true by decide)
  exact ⟨t, tickHallStep_inv, h⟩

theorem witness_NothingStopsAWellFormedCore : running.cfg.wf = true := by decide

theorem running_noShootThrough : noShootThrough running.regs.duty := by
  intro p; cases p <;> decide

theorem witness_OnlyForceCanShootThrough : ∃ t, tickHallStep.cfg.commTable.wf = true
    ∧ noShootThrough tickHallStep.regs.duty ∧ commandOp (pinsNow tickHallStep) ≠ some 4#4
    ∧ step tickHallStep = .next t := by
  obtain ⟨t, h, _⟩ := reaches_iff.mp (show reaches (step tickHallStep) (fun _ => true) = true by decide)
  exact ⟨t, by decide, running_noShootThrough, by decide, h⟩

theorem witness_OnlyForceCanExceedMaxDuty : ∃ t, tickHallStep.Inv ∧ tickHallStep.cfg.wf = true
    ∧ dutyWithin tickHallStep.cfg tickHallStep.regs.duty ∧ commandOp (pinsNow tickHallStep) ≠ some 4#4
    ∧ step tickHallStep = .next t := by
  obtain ⟨t, h, _⟩ := reaches_iff.mp (show reaches (step tickHallStep) (fun _ => true) = true by decide)
  exact ⟨t, tickHallStep_inv, by decide, by intro p; cases p <;> decide, by decide, h⟩

/-- Every clause: a reset cycle, `INIT`, `FORCE`, a Hall event, and a cycle with none of them. -/
theorem witness_DutyRegistersHoldTheLastWriter :
    reaches (step (presenting (resetPins 5) running)) (fun _ => (pinsNow (presenting (resetPins 5) running)).rst) = true
    ∧ reaches (step (runningWith 0x1000100000000000000000000#100)) (fun t => t.regs.duty = ⟨0, 0, 0, 0, 0, 0⟩) = true
    ∧ commandOp (pinsNow (runningWith 0x1000100000000000000000000#100)) = some 1#4
    ∧ reaches (step (runningWith 0x4000600050004000300020001#100)) (fun t => t.regs.duty = ⟨1, 2, 3, 4, 5, 6⟩) = true
    ∧ commandOp (pinsNow (runningWith 0x4000600050004000300020001#100)) = some 4#4
    ∧ reaches (step tickHallStep) (fun t => t.regs.duty = ⟨0, 10, 0, 0, 10, 0⟩) = true
    ∧ carriesHall tickHallStep (pinsNow tickHallStep) = true
    ∧ reaches (step (presenting (idlePins 6) running)) (fun t => t.regs.duty = running.regs.duty) = true
    ∧ carriesHall running (idlePins 6) = false := by decide

/-- One step that answers a state, for the obligations whose only hypothesis that is. -/
theorem witness_step_completes : ∃ t, step tickHallStep = .next t := by
  obtain ⟨t, h, _⟩ := reaches_iff.mp (show reaches (step tickHallStep) (fun _ => true) = true by decide)
  exact ⟨t, h⟩

theorem witness_ConfigurationIsNeverWritten : ∃ t, step tickHallStep = .next t := witness_step_completes

theorem witness_HallPrevFollowsHallIn : ∃ t, step tickHallStep = .next t := witness_step_completes

theorem witness_SequencerFollowsItsTable : ∃ t, step tickHallStep = .next t := witness_step_completes

/-- Every clause: a consume, `INIT`, a Hall event without a consume, a tick alone. -/
theorem witness_EveryTickAndEventIsCountedOnce :
    reaches (step tickHallStep) (fun t => t.regs.tickSum = 0 ∧ t.regs.evCnt = 0 ∧ t.regs.timer = 0) = true
    ∧ (carriesEnabledStep (pinsNow tickHallStep) = true ∧ tickHallStep.regs.ready = true)
    ∧ reaches (step (runningWith 0x1000100000000000000000000#100)) (fun t => t.regs.evCnt = 0) = true
    ∧ reaches (step (presenting (idlePins 4) running)) (fun t => t.regs.evCnt = 2 ∧ t.regs.tickSum = 1312500) = true
    ∧ carriesHall running (idlePins 4) = true ∧ carriesEnabledStep (idlePins 4) = false
    ∧ reaches (step (presenting { idlePins 6 with tick := true } running))
        (fun t => t.regs.timer = 1 ∧ t.regs.evCnt = 1) = true := by decide

theorem witness_ConsumeSeesTheWholeEvent : ∃ t, step tickHallStep = .next t
    ∧ carriesHall tickHallStep (pinsNow tickHallStep) = true ∧ carriesEnabledStep (pinsNow tickHallStep) = true := by
  obtain ⟨t, h, _⟩ := reaches_iff.mp (show reaches (step tickHallStep) (fun _ => true) = true by decide)
  exact ⟨t, h, by decide, by decide⟩

/-- Two states that differ in all four report flags, an operation and a step. -/
theorem witness_ReportFlagsSteerNothing :
    wipeReportFlags tickHallStep = wipeReportFlags { tickHallStep with
      regs := { tickHallStep.regs with secinv := true, sati := true, sato := true, est := 2 } }
    ∧ reaches (exec (.step 100 .cw true) tickHallStep) (fun _ => true) = true
    ∧ reaches (step tickHallStep) (fun _ => true) = true := by decide

/-- Each condition shown and not shown, the two clamps on either side of their bounds. -/
theorem witness_ConditionsAreShownByTheirFlags :
    reaches (exec (.hall 7) running) (fun t => conditionShown t .invalidSector) = true
    ∧ reaches (exec (.hall 1) running) (fun t => !conditionShown t .invalidSector) = true
    ∧ reaches (exec (.step 1 .cw true) (holding { running.regs with evCnt := 0 }))
        (fun t => conditionShown t .stalledMotor) = true
    ∧ reaches (exec (.step 1 .cw true) (holding { running.regs with tickSum := 5, evCnt := 6 }))
        (fun t => conditionShown t .zeroInterval) = true
    ∧ reaches (exec (.step 1 .cw true) (holding { running.regs with tickSum := 6, evCnt := 6 }))
        (fun t => !conditionShown t .zeroInterval && !conditionShown t .stalledMotor) = true
    ∧ reaches (exec (.pidstep 1 0) (holding { running.regs with integ := 901 }))
        (fun t => conditionShown t .integralSaturated) = true
    ∧ reaches (exec (.pidstep 1 0) (holding { running.regs with integ := 900 }))
        (fun t => !conditionShown t .integralSaturated) = true
    ∧ reaches (exec (.pidstep 1 0) (holding { running.regs with perr := 10001 }))
        (fun t => conditionShown t .outputSaturated) = true
    ∧ reaches (exec (.pidstep 1 0) (holding { running.regs with perr := 10000 }))
        (fun t => !conditionShown t .outputSaturated) = true
    ∧ reaches (exec (.pidstep 0 0) (holding { running.regs with kp := 1, perr := -1 }))
        (fun t => conditionShown t .outputSaturated) = true
    ∧ reaches (exec (.pidstep 0 0) (holding { running.regs with kp := 1, perr := 1 }))
        (fun t => !conditionShown t .outputSaturated) = true := by decide

/-- Zero, one digit, and the longest numeral. -/
theorem witness_TelemetryLineIsTheDecimalTemplate :
    u32Digits 0 = [0x30#8] ∧ (7 : U32) ≠ 0 ∧ u32Digits 7 = [0x37#8] ∧ (u32Digits 0xFFFFFFFF).length = 10 := by decide

/-- A core of the configuration `REF`, whose constants are the given ones. -/
theorem witness_BuiltCoreUsesTheGivenConstants :
    (running.cfg.dtNum : Nat) = 1 ∧ (running.cfg.dtDen : Nat) = 1000 ∧ running.cfg.gainFrac = 16
    ∧ reaches (exec (.pidstep 100 40) running) (fun t => t.regs.out = 100) = true := by decide

end Sys2Proof.Machine.Tests
end

section
/-! PROOF. The fields of the `status` word (10_state.md R22) and O49. -/

namespace Sys2Proof.Machine

/-- `DIR` is 1 for CounterClockwise (10_state.md R24). -/
theorem direction_bit_getLsbD_zero (d : Direction) : d.bit.getLsbD 0 = decide (d = .ccw) := by
  cases d <;> rfl

/-- The bit table of `status` (10_state.md R22), at every index. -/
theorem statusWord_getLsbD (r : Regs) (i : Nat) : (statusWord r).getLsbD i =
    if i = 0 then r.ready else if i = 1 then r.secinv else if i = 2 then r.sati else if i = 3 then r.sato
    else if i < 6 then r.est.getLsbD (i - 4) else r.dir.bit.getLsbD (i - 6) := by
  change (r.dir.bit ++ r.est ++ BitVec.ofBool r.sato ++ BitVec.ofBool r.sati ++ BitVec.ofBool r.secinv
    ++ BitVec.ofBool r.ready : BitVec (1 + 2 + 1 + 1 + 1 + 1)).getLsbD i = _
  simp only [BitVec.getLsbD_append, BitVec.getLsbD_ofBool]
  rcases i with _ | _ | _ | _ | i
  · simp
  · simp
  · simp
  · simp
  · have inField : i + 4 < 6 ↔ i < 2 := by omega
    simp [inField]

theorem statusWord_extractLsb'_est (r : Regs) : (statusWord r).extractLsb' 4 2 = r.est := by
  refine BitVec.eq_of_getLsbD_eq fun i hi => ?_
  have inField : 4 + i ≠ 1 ∧ 4 + i ≠ 2 ∧ 4 + i ≠ 3 ∧ 4 + i < 6 := by omega
  simp [statusWord_getLsbD, inField, hi]

/-- Settles O49: each field is read off the bit table of the `status` word. -/
theorem statusWordShowsFlagsAndDirection : Obligations.StatusWordShowsFlagsAndDirection := by
  intro s
  have bits := statusWord_getLsbD s.regs
  exact ⟨bits 0, bits 1, bits 2, bits 3, statusWord_extractLsb'_est s.regs,
    (bits 6).trans (direction_bit_getLsbD_zero s.regs.dir)⟩

end Sys2Proof.Machine
end

section
/-! PROOF. The opcode map of 30_encoding.md R60 reads a command word by its opcode field alone, as the decoder chooses
the operation, and O34. -/

namespace Sys2Proof.Machine

/-- The opcode field alone decides which operation a command word decodes to, and whether it is well-formed. -/
theorem decodeCommand_congr_opField {c c' : CommandWord} (h : opField c = opField c') :
    (decodeCommand c).mnemonic = (decodeCommand c').mnemonic ∧ (decodeCommand c).wf = (decodeCommand c').wf := by
  simp only [decodeCommand, h]
  split <;> exact ⟨rfl, rfl⟩

/-- Hence a fact about the operation's name and its well-formedness need only be shown for the word of each opcode
whose payload is zero. -/
theorem decodeCommand_encodeNone_opField (c : CommandWord) :
    (decodeCommand c).mnemonic = (decodeCommand (encodeNone (opField c))).mnemonic
    ∧ (decodeCommand c).wf = (decodeCommand (encodeNone (opField c))).wf :=
  decodeCommand_congr_opField (opField_encodeNone _).symm

/-- The reserved rows carry the opcodes of their own range only (30_encoding.md R60). -/
theorem decodeCommand_wf (c : CommandWord) : (decodeCommand c).wf = true := by
  have perOpcode : ∀ op : BitVec 4, (decodeCommand (encodeNone op)).wf = true := by decide
  exact (decodeCommand_encodeNone_opField c).2.trans (perOpcode _)

/-- Mask and value of every row lie in the opcode field, so a row covers a word by its opcode alone. -/
theorem covers_iff_opField_of_mem {row : OpcodeRow} (mem : row ∈ opcodeRows) (c : CommandWord) :
    row.covers c = true ↔ opField c &&& opField row.mask = opField row.value := by
  have inField : ∀ row ∈ opcodeRows, row.mask = encodeNone (opField row.mask)
      ∧ row.value = encodeNone (opField row.value) := by decide
  obtain ⟨mask, value⟩ := inField row mem
  exact covers_iff_opField mask value c

/-- The map agrees with the decoder: a row covers exactly the words that decode to the row's operation. -/
theorem covers_iff_mnemonic {row : OpcodeRow} (mem : row ∈ opcodeRows) (c : CommandWord) :
    row.covers c = true ↔ (decodeCommand c).mnemonic = row.mnemonic := by
  have perOpcode : ∀ row ∈ opcodeRows, ∀ op : BitVec 4, op &&& opField row.mask = opField row.value
      ↔ (decodeCommand (encodeNone op)).mnemonic = row.mnemonic := by decide
  obtain ⟨name, -⟩ := decodeCommand_encodeNone_opField c
  rw [covers_iff_opField_of_mem mem, name]
  exact perOpcode row mem _

/-- The map is complete: the operation of every command word has a row. -/
theorem exists_row_of_decodeCommand (c : CommandWord) :
    ∃ row ∈ opcodeRows, (decodeCommand c).mnemonic = row.mnemonic := by
  have perOpcode : ∀ op : BitVec 4, ∃ row ∈ opcodeRows,
      (decodeCommand (encodeNone op)).mnemonic = row.mnemonic := by decide
  obtain ⟨name, -⟩ := decodeCommand_encodeNone_opField c
  rw [name]
  exact perOpcode _

/-- No operation has two rows. -/
theorem row_eq_of_mnemonic_eq : ∀ row ∈ opcodeRows, ∀ other ∈ opcodeRows,
    other.mnemonic = row.mnemonic → other = row := by decide

/-- Settles O34: the word's operation has a row, a row covers the word exactly when it is the row of that operation,
and rows with one name are equal. -/
theorem everyCommandWordHasOneRow : Obligations.EveryCommandWordHasOneRow := by
  intro c
  obtain ⟨row, mem, name⟩ := exists_row_of_decodeCommand c
  refine ⟨row, mem, (covers_iff_mnemonic mem c).mpr name, name, decodeCommand_wf c, fun other otherMem covers => ?_⟩
  have otherName := (covers_iff_mnemonic otherMem c).mp covers
  exact row_eq_of_mnemonic_eq row mem other otherMem (otherName.symm.trans name)

end Sys2Proof.Machine
end

section
/-! PROOF. The two driven switches of `DRIVE` (40_commutation.md R69, R70), O7 and O8. -/

namespace Sys2Proof.Machine

/-- `DRIVE` writes its result wires only, and its result depends on the table and the operands alone
(40_commutation.md R69, R75 (e)). -/
theorem exec_drive (h : Hall) (d : Direction) (t : U16) (s : State) :
    exec (.drive h d t) s = .next { s with ce := driveResult s.cfg.commTable h d t } := rfl

/-- The patterns 1 to 6 are those of a sector (40_commutation.md R66). -/
theorem exists_sectorOf_eq_some {h : Hall} (low : 1 ≤ h.toNat) (high : h.toNat ≤ 6) :
    ∃ sec, sectorOf h = some sec := by
  rw [← Option.ne_none_iff_exists', ne_eq, sectorOf_eq_none]
  rintro (rfl | rfl)
  · exact absurd low (by decide)
  · exact absurd high (by decide)

/-- The high side of the entry's `hi` phase gets the torque, the other two get 0 (40_commutation.md R70). -/
theorem driveResult_highSide {h : Hall} {sec : Sector} (e : sectorOf h = some sec) (table : CommTable) (d : Direction)
    (t : U16) (p : Phase) : highSide (driveResult table h d t).duty p =
      if p = (commEntry table d sec).hi then t else 0 := by
  simp [driveResult_of_some e]

/-- The low side of the entry's `lo` phase gets the torque, the other two get 0 (40_commutation.md R70). -/
theorem driveResult_lowSide {h : Hall} {sec : Sector} (e : sectorOf h = some sec) (table : CommTable) (d : Direction)
    (t : U16) (p : Phase) : lowSide (driveResult table h d t).duty p =
      if p = (commEntry table d sec).lo then t else 0 := by
  simp [driveResult_of_some e]

/-- Settles O7: an invalid pattern has no sector and the result is all off; the pattern of a sector drives the two
switches of its entry. -/
theorem driveFollowsTheTable : Obligations.DriveFollowsTheTable := by
  intro s h d t
  refine ⟨driveResult s.cfg.commTable h d t, exec_drive h d t s, fun i => by rw [driveResult_ind], ?invalid, ?valid⟩
  case invalid =>
    intro invalid
    have off := driveResult_of_none ((sectorOf_eq_none h).mpr invalid) s.cfg.commTable d t
    simp [off]
  case valid =>
    intro sec number
    have e := (sectorOf_eq_some h sec).mpr number
    exact ⟨by rw [driveResult_of_some e],
      fun p => ⟨driveResult_highSide e s.cfg.commTable d t p, driveResult_lowSide e s.cfg.commTable d t p⟩⟩

/-- Settles O8: the two phases are those of the table's entry, which differ in a well-formed table. -/
theorem driveNeverShootsThrough : Obligations.DriveNeverShootsThrough := by
  intro s h d t w low high
  obtain ⟨sec, e⟩ := exists_sectorOf_eq_some low high
  have highs := driveResult_highSide e s.cfg.commTable d t
  have lows := driveResult_lowSide e s.cfg.commTable d t
  have highOff : ∀ p, p ≠ (commEntry s.cfg.commTable d sec).hi →
      highSide (driveResult s.cfg.commTable h d t).duty p = 0 := fun p ne => (highs p).trans (if_neg ne)
  have lowOff : ∀ p, p ≠ (commEntry s.cfg.commTable d sec).lo →
      lowSide (driveResult s.cfg.commTable h d t).duty p = 0 := fun p ne => (lows p).trans (if_neg ne)
  exact ⟨driveResult s.cfg.commTable h d t, (commEntry s.cfg.commTable d sec).hi, (commEntry s.cfg.commTable d sec).lo,
    exec_drive h d t s, ⟨(highs _).trans (if_pos rfl), highOff⟩, ⟨(lows _).trans (if_pos rfl), lowOff⟩,
    commEntry_ne w d sec, driveResult_noShootThrough w h d t,
    fun p neHi neLo => ⟨highOff p neHi, lowOff p neLo⟩,
    fun s' same => by rw [exec_drive, same]⟩

end Sys2Proof.Machine
end

section
/-! PROOF. The quotient of `ESTIMATE` (41_speed_estimator.md R78, R82), O9 and O10. -/

namespace Sys2Proof.Machine

/-- `ESTIMATE` completes and writes its result wires only (41_speed_estimator.md R77). -/
theorem exec_estimate (ts ec k : U32) (s : State) :
    exec (.estimate ts ec k) s = .next { s with se := estimateResult ts ec k } := rfl

/-- The average interval is not zero when there are events and at least one tick for each (41_speed_estimator.md R78,
R80). -/
theorem average_pos {ts ec : U32} (ne : ec ≠ 0) (le : ec.toNat ≤ ts.toNat) : 0 < ts.toNat / ec.toNat :=
  Nat.div_pos le (BitVec.toNat_pos_of_ne_zero ne)

/-- Settles O9: each of the three results of `ESTIMATE` meets the premises of its own clause only. -/
theorem estimateDividesAverageIntoConstant : Obligations.EstimateDividesAverageIntoConstant := by
  intro s ts ec k
  refine ⟨estimateResult ts ec k, exec_estimate ts ec k s, ?_⟩
  obtain ⟨zero, e⟩ | ⟨ne, lt, e⟩ | ⟨ne, le, e⟩ := estimateResult_cases ts ec k
  · exact ⟨fun _ => e, fun ne => absurd zero ne, fun ne => absurd zero ne⟩
  · have avgZero : ts.toNat / ec.toNat = 0 := Nat.div_eq_of_lt lt
    exact ⟨fun zero => absurd zero ne, fun _ _ => e, fun _ avgNe => absurd avgZero avgNe⟩
  · have avgNe : ts.toNat / ec.toNat ≠ 0 := (average_pos ne le).ne'
    exact ⟨fun zero => absurd zero ne, fun _ avgZero => absurd avgZero avgNe, fun _ _ => by simp [e]⟩

/-- A valid measurement has a positive average, and its speed is the constant divided by it (41_speed_estimator.md
R78). -/
theorem estimateResult_of_verdict_ok {ts ec k : U32} (ok : (estimateResult ts ec k).verdict = .ok) :
    0 < ts.toNat / ec.toNat ∧ (estimateResult ts ec k).speed.toNat = k.toNat / (ts.toNat / ec.toNat) := by
  obtain ⟨_, e⟩ | ⟨_, _, e⟩ | ⟨ne, le, e⟩ := estimateResult_cases ts ec k
  · simp [e] at ok
  · simp [e] at ok
  · exact ⟨average_pos ne le, by simp [e]⟩

/-- A truncating quotient is 1 for the divisors above half of the dividend and up to it (41_speed_estimator.md R82). -/
theorem div_eq_one_iff_half_lt {n d : Nat} (pos : 0 < d) : n / d = 1 ↔ n / 2 < d ∧ d ≤ n := by
  rw [Nat.div_eq_iff pos]
  omega

/-- Settles O10: the speed is the quotient of `K` by a positive average, and each clause is a fact about that
quotient. -/
theorem validSpeedRangeAndCorners : Obligations.ValidSpeedRangeAndCorners := by
  intro s t ts ec k run ok avg
  rw [exec_estimate, Host.Outcome.next.injEq] at run
  subst run
  obtain ⟨avgPos, quotient⟩ : 0 < avg ∧ (estimateResult ts ec k).speed.toNat = k.toNat / avg :=
    estimateResult_of_verdict_ok ok
  have speedZero : (estimateResult ts ec k).speed = 0 ↔ k.toNat < avg := by
    rw [← BitVec.toNat_inj, quotient]
    exact Nat.div_eq_zero_iff_lt avgPos
  have speedOne : (estimateResult ts ec k).speed = 1 ↔ k.toNat / 2 < avg ∧ avg ≤ k.toNat := by
    rw [← BitVec.toNat_inj, quotient]
    exact div_eq_one_iff_half_lt avgPos
  refine ⟨speedZero.mpr, fun one => ?averageOne, fun zero => ?constantZero, ?range, speedOne, fun ne => ?nonzero⟩
  case averageOne => exact BitVec.eq_of_toNat_eq (by rw [quotient, one, Nat.div_one])
  case constantZero => exact speedZero.mpr (by simpa [zero] using avgPos)
  case range => exact (estimateResult_range ts ec k).1
  case nonzero => exact Nat.le_of_not_lt (mt speedZero.mpr ne)

end Sys2Proof.Machine
end

section
/-! PROOF. `TICK`, `HALL` and the order of a cycle (43_dispatcher.md R105, R107, R111, R115): O3, O4, O29 and O44. -/

namespace Sys2Proof.Machine

/-- Addition of words is addition of their values modulo `2 ^ w` (00_scope.md R9). -/
theorem ofNat_toNat_add_toNat_mod {w : Nat} (a b : BitVec w) :
    BitVec.ofNat w ((a.toNat + b.toNat) % 2 ^ w) = a + b := by
  rw [← BitVec.toNat_add, BitVec.ofNat_toNat, BitVec.setWidth_eq]

theorem exec_tick (s : State) : exec .tick s = .next (countTick s) := rfl

/-- `HALL` with a new pattern is the event (43_dispatcher.md R104, R111). -/
theorem exec_hall_of_ne {h : Hall} {s : State} (new : h ≠ s.regs.hallprev) :
    exec (.hall h) s = .next (hallEvent h s) := if_neg new

/-- Settles O3: the timer's increment is the addition of 1 modulo `2 ^ 32`. -/
theorem tickAddsOneModulo : Obligations.TickAddsOneModulo := by
  intro s
  have increment : BitVec.ofNat 32 ((s.regs.timer.toNat + 1) % 2 ^ 32) = s.regs.timer + 1 :=
    ofNat_toNat_add_toNat_mod s.regs.timer 1
  rw [exec_tick, increment]
  rfl

/-- Settles O4: the event latches the result of `DRIVE` with the commanded direction and torque. -/
theorem hallEventCapturesCountsAndDrives : Obligations.HallEventCapturesCountsAndDrives := by
  intro s h new
  have sum := ofNat_toNat_add_toNat_mod s.regs.tickSum s.regs.timer
  have count : BitVec.ofNat 32 ((s.regs.evCnt.toNat + 1) % 2 ^ 32) = s.regs.evCnt + 1 :=
    ofNat_toNat_add_toNat_mod s.regs.evCnt 1
  refine ⟨driveResult s.cfg.commTable h s.regs.dir s.regs.torque, exec_drive h s.regs.dir s.regs.torque s,
    driveResult_inv s.cfg.commTable h s.regs.dir s.regs.torque, ?_⟩
  rw [exec_hall_of_ne new, sum, count]
  rfl

/-- The tick of a cycle happens exactly when its pin is high (43_dispatcher.md R115). -/
theorem exec_tick_if_pin (p : Pins) (s : State) :
    (if p.tick = true then exec .tick s else .next s) = .next (afterTick p s) := by
  rw [exec_tick, afterTick, apply_ite Host.Outcome.next]

/-- The Hall event of a cycle happens exactly when `hall_in` differs from the `HALLPREV` at the start of the cycle,
which the tick leaves alone (43_dispatcher.md R104, R115). -/
theorem exec_hall_if_changed (p : Pins) (s : State) :
    (if p.hallIn ≠ s.regs.hallprev then exec (.hall p.hallIn) (afterTick p s) else .next (afterTick p s))
      = .next (afterHall p s) := by
  by_cases same : p.hallIn = s.regs.hallprev
  · rw [if_neg (not_not_intro same), afterHall_of_eq same]
  · rw [if_pos same, afterHall_of_ne same]
    exact exec_hall_of_ne (by rwa [afterTick_hallprev])

/-- Settles O29: the tick part and the Hall part complete, and the rest is the command part and the write of
`HALLPREV`. -/
theorem cycleRunsTickThenHallThenCommand : Obligations.CycleRunsTickThenHallThenCommand := by
  intro s noReset
  rw [step, clockEdge_cycle noReset, exec_tick_if_pin, andThen_next, ← beginCycle_regs s, exec_hall_if_changed,
    andThen_next]
  rfl

/-- Settles O44: a reset edge and the end of every other cycle both write `hall_in` to `HALLPREV`. -/
theorem hallPrevFollowsHallIn : Obligations.HallPrevFollowsHallIn := by
  intro s t run
  obtain ⟨-, rfl⟩ | ⟨-, u, -, rfl⟩ := step_cases run
  · rfl
  · rfl

end Sys2Proof.Machine
end

section
/-! PROOF. The host commands that complete in every state with one fixed write: `NOP`, `INIT`, `RETUNE` and the reserved
opcodes (44_host_commands.md R119 to R121, R129): O16, O17, O18 and O20. -/

namespace Sys2Proof.Machine

/-- `INIT` is a reset that keeps `HALLPREV`, followed by the load of the gains (44_host_commands.md R120). -/
theorem exec_init (kp ki kd : Gain) (s : State) :
    exec (.init kp ki kd) s = .next (setGains kp ki kd { s with regs := Regs.reset s.regs.hallprev }) := rfl

theorem exec_retune (kp ki kd : Gain) (s : State) : exec (.retune kp ki kd) s = .next (setGains kp ki kd s) := rfl

theorem exec_reserved5 (s : State) : exec .reserved5 s = .next (raiseCmdErr s) := rfl

theorem exec_reserved67 (op : BitVec 4) (s : State) : exec (.reserved67 op) s = .next (raiseCmdErr s) := rfl

theorem exec_reserved8F (op : BitVec 4) (s : State) : exec (.reserved8F op) s = .next (raiseCmdErr s) := rfl

/-- Settles O16: the meaning of `NOP` answers the state it is given. -/
theorem nopLeavesTheState : Obligations.NopLeavesTheState := fun _ => rfl

/-- Settles O17: the reset values with the gains replaced are the registers listed. -/
theorem initZeroesAllButHallPrev : Obligations.InitZeroesAllButHallPrev := fun s a b c => exec_init a b c s

/-- Settles O18: the load of the gains is the only write. -/
theorem retuneWritesTheGainsOnly : Obligations.RetuneWritesTheGainsOnly := fun s a b c => exec_retune a b c s

/-- Settles O20: each of the three rows raises `cmd_err` and does nothing else. -/
theorem reservedOpcodesOnlyRaiseCmdErr : Obligations.ReservedOpcodesOnlyRaiseCmdErr := fun s =>
  ⟨exec_reserved5 s, fun op => exec_reserved67 op s, fun op => exec_reserved8F op s⟩

end Sys2Proof.Machine
end

section
/-! PROOF. `STEP` (44_host_commands.md R122 to R128): O21, O22, O23, O25 and O27. -/

namespace Sys2Proof.Machine

theorem exec_step (target : U32) (dir : Direction) (en : Bool) (s : State) :
    exec (.step target dir en) s = execStep target dir en s := rfl

/-- A `STEP` that is not enabled does nothing (44_host_commands.md R123). -/
theorem execStep_disabled (target : U32) (dir : Direction) (s : State) :
    execStep target dir false s = .next s := if_neg Bool.false_ne_true

/-- An enabled `STEP` with nothing pending writes the direction (44_host_commands.md R125). -/
theorem execStep_of_not_ready {s : State} (idle : s.regs.ready = false) (target : U32) (dir : Direction) :
    execStep target dir true s = .next (setDir dir s) := by
  simp [execStep, idle]

/-- An enabled `STEP` with a measurement pending writes the direction and consumes the measurement
(44_host_commands.md R122). -/
theorem execStep_of_ready {s : State} (pending : s.regs.ready = true) (target : U32) (dir : Direction) :
    execStep target dir true s = consume target (setDir dir s) := by
  simp [execStep, pending]

/-- The controller is skipped when the verdict is not OK (44_host_commands.md R126). -/
theorem controlUpdate_of_invalid {s : State} (invalid : s.se.verdict ≠ .ok) (target : U32) :
    controlUpdate target s = .next s := by
  unfold controlUpdate
  split
  · exact absurd ‹_› invalid
  · rfl
  · rfl

/-- The state after the measurement is taken, for the result `e` of the estimator (44_host_commands.md R122). -/
theorem takeMeasurement_eq {s : State} {e : Estimate}
    (estimate : estimateResult s.regs.tickSum s.regs.evCnt s.cfg.clockConstant = e) :
    takeMeasurement s = { s with
      se := e
      regs := { s.regs with
        tickSum := 0, evCnt := 0, ready := false, est := verdictCode e.verdict, speed := e.speed } } := by
  subst estimate
  rfl

/-- A consume whose verdict is not OK emits its record straight after the measurement is taken
(44_host_commands.md R126). -/
theorem consume_of_invalid {s : State} (invalid : (takeMeasurement s).se.verdict ≠ .ok) (target : U32) :
    consume target s = .next (emitTelemetry (takeMeasurement s)) := by
  rw [consume, controlUpdate_of_invalid invalid, andThen_next]

/-- All that an enabled `STEP` does on a pending measurement for which the estimator answers an `e` that is not OK
(44_host_commands.md R126). -/
theorem exec_step_of_invalid {s : State} {e : Estimate} (pending : s.regs.ready = true)
    (estimate : estimateResult s.regs.tickSum s.regs.evCnt s.cfg.clockConstant = e) (invalid : e.verdict ≠ .ok)
    (target : U32) (dir : Direction) :
    exec (.step target dir true) s = .next { s with
      se := e
      tlm := some ⟨e.speed, s.regs.out⟩
      telemetry := s.telemetry ++ [⟨e.speed, s.regs.out⟩]
      regs := { s.regs with
        dir := dir, tickSum := 0, evCnt := 0, ready := false, est := verdictCode e.verdict, speed := e.speed } } := by
  have taken := takeMeasurement_eq (s := setDir dir s) estimate
  have verdict : (takeMeasurement (setDir dir s)).se.verdict ≠ .ok := by rwa [taken]
  rw [exec_step, execStep_of_ready pending, consume_of_invalid verdict, taken]
  rfl

/-- Settles O21: `en = 0` leaves every operand unread. -/
theorem disabledStepIsANoOp : Obligations.DisabledStepIsANoOp := fun s target dir => execStep_disabled target dir s

/-- Settles O22: with nothing to consume only the direction is latched. -/
theorem stepWithNothingPendingLatchesDirection : Obligations.StepWithNothingPendingLatchesDirection :=
  fun _ target dir idle => execStep_of_not_ready idle target dir

/-- Settles O23: the accumulators rule the verdict OK out, and each of the other two verdicts has speed 0 and its own
code. -/
theorem invalidMeasurementSkipsTheController : Obligations.InvalidMeasurementSkipsTheController := by
  intro s target dir pending bad
  obtain ⟨zero, e⟩ | ⟨ne, _, e⟩ | ⟨ne, le, _⟩ :=
    estimateResult_cases s.regs.tickSum s.regs.evCnt s.cfg.clockConstant
  · rw [exec_step_of_invalid pending e (by decide), if_pos zero, if_pos zero]
    rfl
  · rw [exec_step_of_invalid pending e (by decide), if_neg ne, if_neg ne]
    rfl
  · exact absurd bad (not_or.mpr ⟨ne, Nat.not_lt.mpr le⟩)

/-- Settles O25: of the three things a completing `STEP` can have done, only the consume emits, after a controller part
that leaves the records alone. -/
theorem stepEmitsOneRecordPerConsume : Obligations.StepEmitsOneRecordPerConsume := by
  intro s t target dir en run
  rw [exec_step] at run
  obtain ⟨rfl, rfl⟩ | ⟨rfl, idle, rfl⟩ | ⟨rfl, pending, u, control, rfl⟩ := execStep_cases run
  · simp
  · simp [idle]
  · have kept : u.telemetry = (takeMeasurement (setDir dir s)).telemetry := by
      rw [controlUpdate_frame control]
    simp [pending, kept, takeMeasurement]

/-- Settles O27: neither the direction, the measurement, the controller's six registers nor the record is among the
fields listed. -/
theorem stepLeavesOutputsTimerAndGains : Obligations.StepLeavesOutputsTimerAndGains := by
  intro s t target dir en run
  rw [exec_step] at run
  obtain ⟨-, rfl⟩ | ⟨-, -, rfl⟩ | ⟨-, -, u, control, rfl⟩ := execStep_cases run
  · simp
  · simp
  · rw [controlUpdate_frame control]
    simp [takeMeasurement]

end Sys2Proof.Machine
end

section
/-! PROOF. The four writers of the duty registers: a reset edge, `INIT`, `FORCE` and the latch of a `HALL` event
(45_pwm_arbiter.md R130 to R134): O19 and O42. -/

namespace Sys2Proof.Machine

/-- `FORCE` writes its operands to the duty registers (45_pwm_arbiter.md R131). -/
theorem exec_force (d0 d1 d2 d3 d4 d5 : U16) (s : State) :
    exec (.force d0 d1 d2 d3 d4 d5) s = .next (writeDuty ⟨d0, d1, d2, d3, d4, d5⟩ s) := rfl

/-- Settles O19: the write of the six operands is the only write, and the duty ports show the registers. -/
theorem forceWritesSixDutiesVerbatim : Obligations.ForceWritesSixDutiesVerbatim :=
  fun s d0 d1 d2 d3 d4 d5 => ⟨_, exec_force d0 d1 d2 d3 d4 d5 s, rfl, rfl⟩

/-- `STEP` does not write the duty registers (44_host_commands.md R128). -/
theorem execStep_duty {target : U32} {dir : Direction} {en : Bool} {s t : State}
    (run : execStep target dir en s = .next t) : t.regs.duty = s.regs.duty := by
  obtain ⟨duty, -⟩ := stepLeavesOutputsTimerAndGains s t target dir en run
  exact duty

/-- Of the commands only `INIT` and `FORCE` write the duty registers (45_pwm_arbiter.md R130). -/
theorem commandPart_duty_cases {p : Pins} {s u : State} (noReset : p.rst = false)
    (run : commandPart p s = .next u) :
    (commandOp p = some 1#4 ∧ u.regs.duty = dutyOff)
    ∨ (commandOp p = some 4#4 ∧ u.regs.duty =
        ⟨p.cmd.extractLsb' 0 16, p.cmd.extractLsb' 16 16, p.cmd.extractLsb' 32 16, p.cmd.extractLsb' 48 16,
          p.cmd.extractLsb' 64 16, p.cmd.extractLsb' 80 16⟩)
    ∨ (commandOp p ≠ some 1#4 ∧ commandOp p ≠ some 4#4 ∧ u.regs.duty = s.regs.duty) := by
  simp only [ne_eq, commandOp_eq_some]
  obtain ⟨absent, rfl⟩ | ⟨valid, nop, rfl⟩ | ⟨valid, init, kp, ki, kd, rfl⟩ | ⟨valid, retune, kp, ki, kd, rfl⟩
    | ⟨valid, step, target, dir, stepRun⟩ | ⟨valid, force, rfl⟩ | ⟨valid, reserved, rfl⟩ := commandPart_cases run
  · simp [absent]
  · simp [nop]
  · exact .inl ⟨⟨noReset, valid, init⟩, rfl⟩
  · simp [retune]
  · simp [step, execStep_duty stepRun]
  · exact .inr (.inl ⟨⟨noReset, valid, force⟩, rfl⟩)
  · have notInit : opField p.cmd ≠ 1#4 := fun e => absurd (e ▸ reserved) (by decide)
    have notForce : opField p.cmd ≠ 4#4 := fun e => absurd (e ▸ reserved) (by decide)
    simp [notInit, notForce]

/-- A `HALL` event leaves in the duty registers the result of `DRIVE` with the direction and torque from before the
cycle, since the tick before it writes neither (43_dispatcher.md R111, R115). -/
theorem afterHall_duty {p : Pins} (noReset : p.rst = false) (s : State) :
    (afterHall p (beginCycle s)).regs.duty =
      if carriesHall s p then (driveResult s.cfg.commTable p.hallIn s.regs.dir s.regs.torque).duty
      else s.regs.duty := by
  by_cases same : p.hallIn = s.regs.hallprev
  · have noEvent : carriesHall s p = false := by simp [carriesHall, same]
    simp [afterHall_of_eq (s := beginCycle s) same, noEvent]
  · have event : carriesHall s p = true := by simp [carriesHall, same, noReset]
    simp [afterHall_of_ne (s := beginCycle s) same, event]

/-- Settles O42: a reset edge clears the duties; in any other cycle `INIT` or `FORCE` writes over what the Hall part
left, and every other command leaves that. -/
theorem dutyRegistersHoldTheLastWriter : Obligations.DutyRegistersHoldTheLastWriter := by
  intro s t run
  obtain ⟨reset, rfl⟩ | ⟨noReset, u, command, rfl⟩ := step_cases run
  · have noCommand : commandOp (pinsNow s) = none := by simp [commandOp, reset]
    simp [reset, noCommand, Regs.reset, dutyOff]
  rw [setHallPrev_regs]
  obtain ⟨init, duty⟩ | ⟨force, duty⟩ | ⟨noInit, noForce, duty⟩ := commandPart_duty_cases noReset command
  · simp [init, duty, dutyOff]
  · simp [force, duty, noReset]
  · rw [afterHall_duty noReset] at duty
    refine ⟨by simp [noReset, noInit], fun force => absurd force noForce,
      fun _ _ _ => ⟨fun event => ?event, fun noEvent => ?noEvent⟩⟩
    case event =>
      rw [if_pos event] at duty
      exact ⟨_, duty, exec_drive _ _ _ s⟩
    case noEvent => simpa [noEvent] using duty

end Sys2Proof.Machine
end

section
/-! PROOF. The telemetry port (60_exceptions.md R150): O26. -/

namespace Sys2Proof.Machine

/-- The record a state's registers give, the one a consume emits (60_exceptions.md R150). -/
def State.record (s : State) : Telemetry := ⟨s.regs.speed, s.regs.out⟩

/-- From `s` to `t` the record of `t` was put on the telemetry port and added to the list if `emits` is true, and
neither the port nor the list was touched if it is false. -/
def RecordsFollow (emits : Bool) (s t : State) : Prop :=
  t.tlm = (if emits then some t.record else s.tlm)
    ∧ t.telemetry = s.telemetry ++ (if emits then [t.record] else [])

/-- What touches neither the port nor the list emits nothing. -/
theorem recordsFollow_false {s t : State} (port : t.tlm = s.tlm) (list : t.telemetry = s.telemetry) :
    RecordsFollow false s t :=
  ⟨port, list.trans (List.append_nil _).symm⟩

/-- `STEP` emits when it is enabled and a measurement is pending (44_host_commands.md R127). -/
theorem execStep_records {target : U32} {dir : Direction} {en : Bool} {s t : State}
    (run : execStep target dir en s = .next t) : RecordsFollow (en && s.regs.ready) s t := by
  obtain ⟨consumes, otherwise⟩ := stepEmitsOneRecordPerConsume s t target dir en run
  rw [← Bool.and_eq_true] at consumes otherwise
  cases emits : en && s.regs.ready with
  | true =>
    obtain ⟨list, port⟩ := consumes emits
    exact ⟨port, list⟩
  | false =>
    obtain ⟨list, port⟩ := otherwise (by simp [emits])
    exact recordsFollow_false port list

theorem carriesEnabledStep_eq_false_of_rst {p : Pins} (reset : p.rst = true) : carriesEnabledStep p = false := by
  rw [← Bool.not_eq_true, carriesEnabledStep_eq_true]
  simp [reset]

/-- A command other than `STEP` that touches neither the port nor the list emits nothing. -/
theorem recordsFollow_of_not_step {p : Pins} {s u : State} (other : ¬(p.cmdValid = true ∧ opField p.cmd = 3#4))
    (port : u.tlm = s.tlm) (list : u.telemetry = s.telemetry) :
    RecordsFollow (carriesEnabledStep p && s.regs.ready) s u := by
  have noStep : carriesEnabledStep p = false := by
    rw [← Bool.not_eq_true, carriesEnabledStep_eq_true]
    exact fun ⟨_, valid, step, _⟩ => other ⟨valid, step⟩
  rw [noStep]
  exact recordsFollow_false port list

/-- Of the commands only an enabled `STEP` emits (60_exceptions.md R150). -/
theorem commandPart_records {p : Pins} {s u : State} (noReset : p.rst = false) (run : commandPart p s = .next u) :
    RecordsFollow (carriesEnabledStep p && s.regs.ready) s u := by
  obtain ⟨absent, rfl⟩ | ⟨-, nop, rfl⟩ | ⟨-, init, kp, ki, kd, rfl⟩ | ⟨-, retune, kp, ki, kd, rfl⟩
    | ⟨valid, step, target, dir, stepRun⟩ | ⟨-, force, rfl⟩ | ⟨-, reserved, rfl⟩ := commandPart_cases run
  · exact recordsFollow_of_not_step (by simp [absent]) rfl rfl
  · exact recordsFollow_of_not_step (by simp [nop]) rfl rfl
  · exact recordsFollow_of_not_step (by simp [init]) rfl rfl
  · exact recordsFollow_of_not_step (by simp [retune]) rfl rfl
  · have enabled : carriesEnabledStep p = p.cmd.getLsbD 33 := by
      rw [Bool.eq_iff_iff, carriesEnabledStep_eq_true]
      simp [noReset, valid, step]
    rw [enabled]
    exact execStep_records stepRun
  · exact recordsFollow_of_not_step (by simp [force]) rfl rfl
  · have notStep : opField p.cmd ≠ 3#4 := fun e => absurd (e ▸ reserved) (by decide)
    exact recordsFollow_of_not_step (by simp [notStep]) rfl rfl

/-- A cycle starts with the port empty and emits when it carries an enabled `STEP` and a measurement is pending once
its own Hall pins are taken in (43_dispatcher.md R115, 60_exceptions.md R150). -/
theorem step_records {s t : State} (run : step s = .next t) :
    RecordsFollow (carriesEnabledStep (pinsNow s) && (s.regs.ready || carriesHall s (pinsNow s))) (beginCycle s) t := by
  obtain ⟨reset, rfl⟩ | ⟨noReset, u, command, rfl⟩ := step_cases run
  · rw [carriesEnabledStep_eq_false_of_rst reset]
    exact recordsFollow_false rfl rfl
  · have event : carriesHall s (pinsNow s) = ((pinsNow s).hallIn != s.regs.hallprev) := by simp [carriesHall, noReset]
    obtain ⟨-, portKept, listKept, -⟩ := afterHall_frame (pinsNow s) (beginCycle s)
    obtain ⟨port, list⟩ := commandPart_records noReset command
    rw [portKept, afterHall_ready, beginCycle_regs, ← event] at port
    rw [listKept, afterHall_ready, beginCycle_regs, ← event] at list
    exact ⟨port, list⟩

/-- Settles O26: what a cycle that emits puts on the port is the record of its last state, and a cycle that does not
emit leaves the port as empty as it found it. -/
theorem telemetryPortCarriesTheNewValues : Obligations.TelemetryPortCarriesTheNewValues := by
  intro s t run
  have records := step_records run
  rw [← Bool.or_eq_true, ← Bool.and_eq_true]
  generalize (carriesEnabledStep (pinsNow s) && (s.regs.ready || carriesHall s (pinsNow s))) = emits at records ⊢
  obtain ⟨port, list⟩ := records
  cases emits with
  | false =>
    have empty : t.tlm = none := port
    simpa [empty] using list
  | true =>
    have emitted : t.tlm = some t.record := port
    refine ⟨by simp [emitted], fun r onPort => ?_, by simpa [emitted] using list⟩
    exact Option.some.inj (onPort.symm.trans emitted)

end Sys2Proof.Machine
end

section
/-! PROOF. Decimal numerals and the telemetry line (60_exceptions.md R151): O51. -/

namespace Sys2Proof.Machine

/-- The character of a digit is `0x30` above it. -/
theorem digitChar_toNat {n : Nat} (digit : n < 10) : (digitChar n).toNat = 0x30 + n := by
  rw [digitChar, BitVec.toNat_ofNat]
  omega

theorem digitChar_range {n : Nat} (digit : n < 10) :
    0x30 ≤ (digitChar n).toNat ∧ (digitChar n).toNat ≤ 0x39 := by
  rw [digitChar_toNat digit]
  omega

theorem digitChar_ne_zero {n : Nat} (digit : n < 10) (ne : n ≠ 0) : digitChar n ≠ 0x30#8 := by
  intro e
  have value : 0x30 + n = 0x30 := by rw [← digitChar_toNat digit, e]; rfl
  omega

/-- A numeral's last digit counts once and the digits before it ten times. -/
theorem numeralValue_append_digitChar (digits : List Byte) {n : Nat} (digit : n < 10) :
    numeralValue (digits ++ [digitChar n]) = 10 * numeralValue digits + n := by
  rw [numeralValue, List.foldl_append, List.foldl_cons, List.foldl_nil, digitChar_toNat digit,
    Nat.add_sub_cancel_left]
  rfl

theorem numeralValue_digitChar {n : Nat} (digit : n < 10) : numeralValue [digitChar n] = n :=
  (numeralValue_append_digitChar [] digit).trans (Nat.zero_add n)

theorem decimalDigits_length_le (fuel n : Nat) : (decimalDigits fuel n).length ≤ fuel := by
  fun_induction decimalDigits fuel n with
  | case1 => simp
  | case2 => simp
  | case3 fuel n _ ih => simpa using ih

theorem decimalDigits_range (fuel n : Nat) : ∀ d ∈ decimalDigits fuel n, 0x30 ≤ d.toNat ∧ d.toNat ≤ 0x39 := by
  fun_induction decimalDigits fuel n with
  | case1 => simp
  | case2 fuel n digit => simpa using digitChar_range digit
  | case3 fuel n _ ih =>
    intro d mem
    obtain earlier | last := List.mem_append.mp mem
    · exact ih d earlier
    · rw [List.mem_singleton.mp last]
      exact digitChar_range (n.mod_lt (by decide))

theorem decimalDigits_succ_ne_nil (fuel n : Nat) : decimalDigits (fuel + 1) n ≠ [] := by
  rw [decimalDigits]
  split <;> simp

/-- The digits before the last have room for the quotient by 10. -/
theorem div_ten_lt_pow {fuel n : Nat} (fits : n < 10 ^ (fuel + 1)) : n / 10 < 10 ^ fuel :=
  Nat.div_lt_of_lt_mul (by rwa [← Nat.pow_succ'])

/-- With digits enough for `n` the numeral has the value `n`. -/
theorem numeralValue_decimalDigits {fuel n : Nat} (fits : n < 10 ^ fuel) : numeralValue (decimalDigits fuel n) = n := by
  fun_induction decimalDigits fuel n with
  | case1 n => exact (Nat.lt_one_iff.mp fits).symm
  | case2 fuel n digit => exact numeralValue_digitChar digit
  | case3 fuel n _ ih =>
    rw [numeralValue_append_digitChar _ (n.mod_lt (by decide)), ih (div_ten_lt_pow fits)]
    exact Nat.div_add_mod n 10

/-- With digits enough for a number that is not 0 the numeral does not begin with the digit 0: its first digit is that
of the quotient by 10, down to a quotient below 10. -/
theorem decimalDigits_head?_ne_zero {fuel n : Nat} (fits : n < 10 ^ fuel) (ne : n ≠ 0) :
    (decimalDigits fuel n).head? ≠ some 0x30#8 := by
  fun_induction decimalDigits fuel n with
  | case1 => simp
  | case2 fuel n digit => simpa using digitChar_ne_zero digit ne
  | case3 fuel n large ih =>
    have quotientFits : n / 10 < 10 ^ fuel := div_ten_lt_pow fits
    have quotientNe : n / 10 ≠ 0 := by omega
    have digitsLeft : decimalDigits fuel (n / 10) ≠ [] := by
      cases fuel with
      | zero => exact absurd (Nat.lt_one_iff.mp quotientFits) quotientNe
      | succ fuel => exact decimalDigits_succ_ne_nil fuel _
    rw [List.head?_append_of_ne_nil _ digitsLeft]
    exact ih quotientFits quotientNe

/-- Settles O51: ten digits are enough for a u32, and the line is the template as it is defined. -/
theorem telemetryLineIsTheDecimalTemplate : Obligations.TelemetryLineIsTheDecimalTemplate := by
  refine ⟨fun v => ?_, fun _ => rfl⟩
  have fits : v.toNat < 10 ^ 10 := v.isLt.trans (by decide)
  refine ⟨numeralValue_decimalDigits fits, decimalDigits_range 10 v.toNat, decimalDigits_length_le 10 v.toNat,
    decimalDigits_succ_ne_nil 9 v.toNat, fun ne => ?nonzero, fun zero => ?zero⟩
  case nonzero => exact decimalDigits_head?_ne_zero fits (BitVec.toNat_pos_of_ne_zero ne).ne'
  case zero =>
    rw [zero]
    rfl

end Sys2Proof.Machine
end

section
/-! PROOF. A reserved command word (30_encoding.md R61): O36. -/

namespace Sys2Proof.Machine

/-- `STEP` does not drive `cmd_err` (44_host_commands.md R128). -/
theorem execStep_cmdErr {target : U32} {dir : Direction} {en : Bool} {s t : State}
    (run : execStep target dir en s = .next t) : t.cmdErr = s.cmdErr := by
  obtain ⟨-, -, -, -, -, -, -, -, -, -, cmdErr, -⟩ := stepLeavesOutputsTimerAndGains s t target dir en run
  exact cmdErr

/-- The command of a cycle raises `cmd_err` exactly when there is one and its opcode is reserved
(30_encoding.md R61). -/
theorem commandPart_cmdErr {p : Pins} {s u : State} (run : commandPart p s = .next u) :
    u.cmdErr = (s.cmdErr || (p.cmdValid && decide (5 ≤ (opField p.cmd).toNat))) := by
  obtain ⟨absent, rfl⟩ | ⟨-, nop, rfl⟩ | ⟨-, init, kp, ki, kd, rfl⟩ | ⟨-, retune, kp, ki, kd, rfl⟩
    | ⟨-, step, target, dir, stepRun⟩ | ⟨-, force, rfl⟩ | ⟨valid, reserved, rfl⟩ := commandPart_cases run
  · simp [absent]
  · simp [nop]
  · simp [init]
  · simp [retune]
  · simp [step, execStep_cmdErr stepRun]
  · simp [force]
  · simp [valid, reserved]

/-- A reserved word decodes to one of the three reserved rows, whose only effect is `cmd_err` (30_encoding.md R60,
R61). -/
theorem exec_decodeCommand_of_reserved {c : CommandWord} (reserved : 5 ≤ (opField c).toNat) (s : State) :
    exec (decodeCommand c) s = .next (raiseCmdErr s) := by
  obtain ⟨op, -⟩ | ⟨op, -⟩ | ⟨op, -⟩ | ⟨op, -⟩ | ⟨op, -⟩ | ⟨-, row⟩ | ⟨-, row⟩ | ⟨-, row⟩ := decodeCommand_cases c
  · simp [op] at reserved
  · simp [op] at reserved
  · simp [op] at reserved
  · simp [op] at reserved
  · simp [op] at reserved
  · rw [row, exec_reserved5]
  · rw [row, exec_reserved67]
  · rw [row, exec_reserved8F]

theorem commandPart_of_reserved {p : Pins} (valid : p.cmdValid = true) (reserved : 5 ≤ (opField p.cmd).toNat)
    (s : State) : commandPart p s = .next (raiseCmdErr s) := by
  rw [commandPart, if_pos valid, exec_decodeCommand_of_reserved reserved]

/-- A cycle without a command does its tick, its Hall part and the write of `HALLPREV` (43_dispatcher.md R115). -/
theorem clockEdge_without_command {p : Pins} (noReset : p.rst = false) (s : State) :
    clockEdge { p with cmdValid := false } s = .next (setHallPrev p.hallIn (afterHall p s)) :=
  clockEdge_cycle (p := { p with cmdValid := false }) noReset s

/-- Settles O36: a cycle starts with `cmd_err = 0`, and only its command part can raise it; that part is all a reserved
word adds to the cycle. -/
theorem reservedWordDrivesCmdErrOnly : Obligations.ReservedWordDrivesCmdErrOnly := by
  intro s
  refine ⟨fun t run => ?port, fun noReset valid reserved => ?reserved⟩
  case port =>
    obtain ⟨reset, rfl⟩ | ⟨noReset, u, command, rfl⟩ := step_cases run
    · simp [reset]
    · obtain ⟨-, -, -, kept, -⟩ := afterHall_frame (pinsNow s) (beginCycle s)
      simp [commandPart_cmdErr command, kept, noReset]
  case reserved =>
    refine ⟨_, ?_, clockEdge_without_command noReset (beginCycle s)⟩
    rw [step, clockEdge_cycle noReset, commandPart_of_reserved valid reserved]
    rfl

end Sys2Proof.Machine
end

section
/-! PROOF. The reset edge and its difference from `INIT` (70_reset_and_hazards.md R154, R156): O1 and O14. -/

namespace Sys2Proof.Machine

/-- With `rst = 1` a cycle is its reset edge alone (70_reset_and_hazards.md R154). -/
theorem step_of_reset {s : State} (reset : (pinsNow s).rst = true) :
    step s = .next (resetEdge (pinsNow s).hallIn (beginCycle s)) :=
  clockEdge_reset reset (beginCycle s)

/-- Settles O1: the reset edge writes the registers and the two ports, the start of the cycle takes the pins. -/
theorem resetEdgeLoadsResetValues : Obligations.ResetEdgeLoadsResetValues := fun _ reset => step_of_reset reset

/-- With all gains 0 each of the three terms of the controller is 0 (42_pid.md R91). -/
theorem rawOutput_of_gains_zero {r : Regs} (kp : r.kp = 0) (ki : r.ki = 0) (kd : r.kd = 0) (cfg : Config)
    (target measured : U32) : rawOutput cfg r target measured = 0 := by
  simp [rawOutput, kp, ki, kd]

theorem pidValues_out_of_gains_zero {r : Regs} (kp : r.kp = 0) (ki : r.ki = 0) (kd : r.kd = 0) (cfg : Config)
    (target measured : U32) : (pidValues cfg r target measured).out = 0 := by
  obtain ⟨-, -, -, out⟩ := pidValues_spec cfg r target measured
  rw [out, pidValues_raw, rawOutput_of_gains_zero kp ki kd]
  omega

/-- An output of 0 asks for no torque, so `PIDSTEP` completes in every configuration (42_pid.md R95). -/
theorem pidStep_of_out_eq_zero {s : State} {target measured : U32}
    (zero : (pidValues s.cfg s.regs target measured).out = 0) :
    pidStep target measured s = .next (writePid (pidValues s.cfg s.regs target measured) 0 s) := by
  have torque : pidTorque s.cfg (pidValues s.cfg s.regs target measured).out = 0 := by simp [zero, pidTorque]
  rw [pidStep_eq, torque, if_pos (Nat.zero_le _)]

/-- Settles O14: both load the reset values, `INIT` under its operands and the old `HALLPREV`; a controller whose
gains are 0 has the output 0. -/
theorem resetAndInitDifferInGainsAndHallPrev : Obligations.ResetAndInitDifferInGainsAndHallPrev := by
  refine ⟨fun s kp ki kd => exec_init kp ki kd s, fun s reset => ⟨_, step_of_reset reset, rfl⟩,
    fun s target measured kp ki kd => ?_⟩
  have zero := pidValues_out_of_gains_zero kp ki kd s.cfg target measured
  exact ⟨_, pidStep_of_out_eq_zero zero, by simp [zero], rfl⟩

end Sys2Proof.Machine
end

section
/-! PROOF. The round trip over all instructions and the ignored bits of a command word (30_encoding.md R55 to R62): O32,
O33 and O35. -/

namespace Sys2Proof.Machine

/-- Every well-formed instruction that has a port word is what its word decodes to (30_encoding.md R50 to R62). -/
theorem decode_encode (i : Instr) : Laws.RoundTrip.Statement i := by
  cases i with
  | nop => exact Laws.RoundTrip.nop
  | init kp ki kd => exact Laws.RoundTrip.init kp ki kd
  | retune kp ki kd => exact Laws.RoundTrip.retune kp ki kd
  | step target dir en => exact Laws.RoundTrip.step target dir en
  | force d0 d1 d2 d3 d4 d5 => exact Laws.RoundTrip.force d0 d1 d2 d3 d4 d5
  | reserved5 => exact Laws.RoundTrip.reserved5
  | reserved67 op => exact Laws.RoundTrip.reserved67 op
  | reserved8F op => exact Laws.RoundTrip.reserved8F op
  | tick => exact Laws.RoundTrip.tick
  | hall h => exact Laws.RoundTrip.hall h
  | drive h d t => exact Laws.RoundTrip.drive h d t
  | estimate ts ec k => exact Laws.RoundTrip.estimate ts ec k
  | pidstep target measured => exact Laws.RoundTrip.pidstep target measured

/-- The internal operations, and no others, have no port word (30_encoding.md R62). -/
theorem encode_eq_none_iff (i : Instr) : encode i = none ↔ i.mnemonic ∈ ["DRIVE", "ESTIMATE", "PIDSTEP"] := by
  cases i <;> simp [encode, Instr.mnemonic]

/-- Settles O33: the round trip of each row, and the rows that have no word. -/
theorem decodeInvertsEncode : Obligations.DecodeInvertsEncode :=
  fun i => ⟨decode_encode i, encode_eq_none_iff i⟩

/-- A part of a field is a part of the word. -/
theorem extractLsb'_eq_of_low_bits_eq {w n : Nat} {c c' : BitVec w} (same : c.extractLsb' 0 n = c'.extractLsb' 0 n)
    {start len : Nat} (inside : start + len ≤ n) : c.extractLsb' start len = c'.extractLsb' start len := by
  refine BitVec.eq_of_getLsbD_eq fun i hi => ?_
  have bit : ((c.extractLsb' 0 n).getLsbD (start + i)) = ((c'.extractLsb' 0 n).getLsbD (start + i)) := by rw [same]
  have inField : start + i < n := by omega
  simpa [inField, hi] using bit

/-- The opcodes whose payload is ignored: `NOP` and the reserved ones (30_encoding.md R59, R61). -/
theorem decodeCommand_congr_of_payload_ignored {c c' : CommandWord} (same : opField c = opField c')
    (ignored : opField c = 0#4 ∨ 5 ≤ (opField c).toNat) : decodeCommand c = decodeCommand c' := by
  unfold decodeCommand
  rw [← same]
  generalize opField c = op at ignored
  obtain rfl | reserved := ignored
  · rfl
  · split
    case h_2 | h_3 | h_4 | h_5 => omega
    all_goals rfl

/-- `STEP` reads no payload bit above `cmd[33]` (30_encoding.md R57). -/
theorem decodeCommand_congr_of_step {c c' : CommandWord} (op : opField c = 3#4) (op' : opField c' = 3#4)
    (low : c.extractLsb' 0 34 = c'.extractLsb' 0 34) : decodeCommand c = decodeCommand c' := by
  have target : c.extractLsb' 0 32 = c'.extractLsb' 0 32 := extractLsb'_eq_of_low_bits_eq low (by decide)
  have dir : c.extractLsb' 32 1 = c'.extractLsb' 32 1 := extractLsb'_eq_of_low_bits_eq low (by decide)
  have en : c.extractLsb' 33 1 = c'.extractLsb' 33 1 := extractLsb'_eq_of_low_bits_eq low (by decide)
  simp [decodeCommand, op, op', target, dir, en]

/-- Settles O35: the decoder reads the opcode alone, or the opcode and `cmd[33:0]`. -/
theorem ignoredBitsDoNotMatter : Obligations.IgnoredBitsDoNotMatter :=
  fun _ _ same => ⟨decodeCommand_congr_of_payload_ignored same,
    fun step low => decodeCommand_congr_of_step step (same.symm.trans step) low⟩

/-- Settles O32: the decoder computes on written-out words. -/
theorem wordsDecodeAsWritten : Obligations.WordsDecodeAsWritten := by
  unfold Obligations.WordsDecodeAsWritten
  decide

end Sys2Proof.Machine
end

section
/-! PROOF. The write lists of the thirteen operations (10_state.md R18, R20, R23 to R28): O28. -/

namespace Sys2Proof.Machine

theorem exec_pidstep (target measured : U32) (s : State) :
    exec (.pidstep target measured) s = pidStep target measured s := rfl

/-- Outside its event `HALL` writes nothing, and its event is the update `hallEvent` (43_dispatcher.md R104, R111). -/
theorem exec_hall_cases {h : Hall} {s t : State} (run : exec (.hall h) s = .next t) :
    (h = s.regs.hallprev ∧ t = s) ∨ (h ≠ s.regs.hallprev ∧ t = hallEvent h s) := by
  by_cases same : h = s.regs.hallprev
  · have unchanged : exec (.hall h) s = .next s := if_pos same
    exact .inl ⟨same, Host.Outcome.next.inj (run.symm.trans unchanged)⟩
  · exact .inr ⟨same, Host.Outcome.next.inj (run.symm.trans (exec_hall_of_ne same))⟩

/-- Settles O28: the write of each operation touches the registers of its own lists only. -/
theorem onlyTheListedOperationsWrite : Obligations.OnlyTheListedOperationsWrite := by
  intro i s t run
  cases i with
  | nop => cases run; simp
  | init kp ki kd => cases run; simp [Instr.mnemonic, Regs.reset]
  | retune kp ki kd => cases run; simp [Instr.mnemonic]
  | step target dir en =>
    obtain ⟨duty, ind, secinv, timer, hallprev, kp, ki, kd, ce, cfg, cmdErr, inputs, cycle⟩ :=
      stepLeavesOutputsTimerAndGains s t target dir en run
    simp [Instr.mnemonic, duty, ind, secinv, timer, hallprev, kp, ki, kd, ce, cfg, cmdErr, inputs, cycle]
  | force d0 d1 d2 d3 d4 d5 => cases run; simp [Instr.mnemonic]
  | reserved5 => cases run; simp [Instr.mnemonic]
  | reserved67 op => cases run; simp [Instr.mnemonic]
  | reserved8F op => cases run; simp [Instr.mnemonic]
  | tick => cases run; simp [Instr.mnemonic]
  | hall h =>
    obtain ⟨-, rfl⟩ | ⟨-, rfl⟩ := exec_hall_cases run
    · simp
    · simp [Instr.mnemonic, hallEvent]
  | drive h d t => cases run; simp [Instr.mnemonic]
  | estimate ts ec k => cases run; simp [Instr.mnemonic]
  | pidstep target measured =>
    obtain ⟨-, rfl⟩ := pidStep_cases run
    simp [Instr.mnemonic]

/-- No operation writes the configuration (20_memory.md R44). -/
theorem exec_cfg {i : Instr} {s t : State} (run : exec i s = .next t) : t.cfg = s.cfg := by
  obtain ⟨-, -, -, -, -, -, -, -, -, -, -, -, cfg, -⟩ := onlyTheListedOperationsWrite i s t run
  exact cfg

/-- Only `HALL` writes `HALLPREV` (10_state.md R28). -/
theorem exec_hallprev {i : Instr} {s t : State} (run : exec i s = .next t) (other : i.mnemonic ≠ "HALL") :
    t.regs.hallprev = s.regs.hallprev := by
  obtain ⟨-, -, -, -, -, -, -, hallprev, -⟩ := onlyTheListedOperationsWrite i s t run
  exact hallprev other

end Sys2Proof.Machine
end

section
/-! PROOF. The cycle as its command on what the tick and the Hall pins left: the write of `HALLPREV` at its end finds
`hall_in` there already (43_dispatcher.md R104, R105, R115). O5, O6, O30, O31 and O43. -/

namespace Sys2Proof.Machine

theorem decodeCommand_ne_hall (c : CommandWord) : (decodeCommand c).mnemonic ≠ "HALL" := by
  have perOpcode : ∀ op : BitVec 4, (decodeCommand (encodeNone op)).mnemonic ≠ "HALL" := by decide
  obtain ⟨name, -⟩ := decodeCommand_encodeNone_opField c
  rw [name]
  exact perOpcode _

theorem commandPart_hallprev {p : Pins} {s t : State} (run : commandPart p s = .next t) :
    t.regs.hallprev = s.regs.hallprev := by
  unfold commandPart at run
  split at run
  · exact exec_hallprev run (decodeCommand_ne_hall p.cmd)
  · cases run; rfl

theorem commandPart_cfg {p : Pins} {s t : State} (run : commandPart p s = .next t) : t.cfg = s.cfg := by
  unfold commandPart at run
  split at run
  · exact exec_cfg run
  · cases run; rfl

/-- After the Hall pins `HALLPREV` holds `hall_in`, event or not (43_dispatcher.md R105). -/
@[simp] theorem afterHall_hallprev (p : Pins) (s : State) : (afterHall p s).regs.hallprev = p.hallIn := by
  unfold afterHall
  split
  · rename_i same; simp [same]
  · rfl

/-- A step without reset is its command on what the tick and the Hall pins left (43_dispatcher.md R115). -/
theorem step_eq_commandPart {s : State} (noReset : (pinsNow s).rst = false) :
    step s = commandPart (pinsNow s) (afterHall (pinsNow s) (beginCycle s)) := by
  rw [step, clockEdge_cycle noReset]
  cases command : commandPart (pinsNow s) (afterHall (pinsNow s) (beginCycle s)) with
  | next t =>
    have holds : t.regs.hallprev = (pinsNow s).hallIn := by
      rw [commandPart_hallprev command, afterHall_hallprev]
    rw [← holds]
    rfl
  | fault r => rfl
  | refused r => rfl

/-- The two kinds of step, read off `step_eq_commandPart`. -/
theorem step_cases_commandPart {s t : State} (run : step s = .next t) :
    ((pinsNow s).rst = true ∧ t = resetEdge (pinsNow s).hallIn (beginCycle s))
    ∨ ((pinsNow s).rst = false ∧ commandPart (pinsNow s) (afterHall (pinsNow s) (beginCycle s)) = .next t) := by
  cases reset : (pinsNow s).rst with
  | true => exact .inl ⟨rfl, Host.Outcome.next.inj (run.symm.trans (step_of_reset reset))⟩
  | false => exact .inr ⟨rfl, step_eq_commandPart reset ▸ run⟩

theorem commandPart_of_valid {p : Pins} (valid : p.cmdValid = true) (s : State) :
    commandPart p s = exec (decodeCommand p.cmd) s := if_pos valid

theorem commandPart_of_not_valid {p : Pins} (absent : p.cmdValid = false) (s : State) :
    commandPart p s = .next s := by simp [commandPart, absent]

/-- The Hall part of a cycle without a tick is the operation `HALL hall_in`, which is no event when nothing changed. -/
theorem exec_hall_eq_afterHall {p : Pins} (noTick : p.tick = false) (s : State) :
    exec (.hall p.hallIn) s = .next (afterHall p s) := by
  have tickPart : afterTick p s = s := by simp [afterTick, noTick]
  rw [afterHall, tickPart, apply_ite Host.Outcome.next]
  rfl

/-- Settles O5: the operation asks whether its operand differs from `HALLPREV`. -/
theorem unchangedHallPatternIsNoEvent : Obligations.UnchangedHallPatternIsNoEvent := fun _ => if_pos rfl

/-- Settles O6: with no tick and no command the cycle is its Hall part. -/
theorem edgeDetectorComparesWithHallPrev : Obligations.EdgeDetectorComparesWithHallPrev := by
  intro s noReset noTick noCommand
  have hallPart : step s = exec (.hall (pinsNow s).hallIn) (beginCycle s) := by
    rw [step_eq_commandPart noReset, commandPart_of_not_valid noCommand, exec_hall_eq_afterHall noTick]
  refine ⟨fun _ => hallPart, fun same => ?_⟩
  rw [hallPart, same]
  exact unchangedHallPatternIsNoEvent (beginCycle s)

/-- Settles O30: of the three parts of the cycle the two that the word does not stand for leave the state as it is. -/
theorem stepRunsTheDecodedWord : Obligations.StepRunsTheDecodedWord := by
  intro s w i decoded pins
  have noReset : (pinsNow s).rst = false := by rw [pins]; cases w <;> rfl
  rw [step_eq_commandPart noReset, pins]
  cases w with
  | tickPin level =>
    rw [decode] at decoded
    split at decoded
    · rename_i high
      cases decoded
      rw [commandPart_of_not_valid rfl, afterHall_of_eq rfl]
      simp [afterTick, pinsPresenting, high, exec_tick]
    · cases decoded
  | hallPins h =>
    cases decoded
    rw [commandPart_of_not_valid rfl]
    exact (exec_hall_eq_afterHall (p := pinsPresenting s.regs.hallprev (.hallPins h)) rfl (beginCycle s)).symm
  | command c =>
    cases decoded
    rw [commandPart_of_valid rfl, afterHall_of_eq rfl]
    rfl

/-- The level a Hall word starts from does not show on the pins that present the word (log 3). -/
theorem pinsPresenting_levelBefore (level : Hall) (w : PortWord) :
    pinsPresenting (levelBefore level w) w = pinsPresenting level w := by cases w <;> rfl

/-- A Hall word always starts from another pattern (log 3). -/
theorem ne_levelBefore_hallPins : ∀ h level : Hall, h ≠ levelBefore level (.hallPins h) := by decide

/-- Only the Hall pins ask for `HALL` (30_encoding.md R62). -/
theorem eq_hallPins_of_decode_eq_hall {w : PortWord} {h : Hall} (decoded : decode w = .ok (.hall h)) :
    w = .hallPins h := by
  cases w with
  | tickPin level => rw [decode] at decoded; split at decoded <;> cases decoded
  | hallPins h' => cases decoded; rfl
  | command c =>
    have command : decodeCommand c = .hall h := Except.ok.inj decoded
    exact absurd (congrArg Instr.mnemonic command) (decodeCommand_ne_hall c)

/-- A table word that reads as an instruction stands on a port, and that port's word decodes to it. -/
theorem exists_portWord_of_decodeTableWord {nbits w : Nat} {i : Instr} (read : decodeTableWord nbits w = some i) :
    ∃ p, portWordOf nbits w = some p ∧ decode p = .ok i := by
  unfold decodeTableWord at read
  split at read
  · rename_i p port
    refine ⟨p, port, ?_⟩
    split at read
    · rename_i j decoded; cases read; exact decoded
    · cases read
  · cases read

/-- Settles O31: the placed cycle presents the word from the level `levelBefore` gives, so O30 applies. -/
theorem fetchWordRunsTheTableWord : Obligations.FetchWordRunsTheTableWord := by
  intro s nbits w i read
  obtain ⟨p, port, decoded⟩ := exists_portWord_of_decodeTableWord read
  have placed : s.withFetchWord nbits w =
      { setHallPrev (levelBefore s.regs.hallprev p) s with
        inputs := pinsPresenting s.regs.hallprev p :: s.inputs } := by
    rw [State.withFetchWord, presentTableWord, port]
  rw [placed]
  refine ⟨stepRunsTheDecodedWord _ p i decoded (pinsPresenting_levelBefore _ p).symm, fun h hall => ?event, rfl⟩
  case event =>
    have word : p = .hallPins h := eq_hallPins_of_decode_eq_hall (hall ▸ decoded)
    exact word ▸ ne_levelBefore_hallPins h s.regs.hallprev

/-- Settles O43: neither the start of the cycle, the reset edge, the tick and Hall parts nor an operation writes it. -/
theorem configurationIsNeverWritten : Obligations.ConfigurationIsNeverWritten := by
  intro s t run
  obtain ⟨-, rfl⟩ | ⟨-, command⟩ := step_cases_commandPart run
  · rfl
  · obtain ⟨cfg, -⟩ := afterHall_frame (pinsNow s) (beginCycle s)
    exact (commandPart_cfg command).trans cfg

end Sys2Proof.Machine
end

section
/-! PROOF. The values of `PIDSTEP` over exact integers (42_pid.md R85 to R103): O11, O12, O13, O15 and O52. -/

namespace Sys2Proof.Machine

/-- The five values, written out over exact integers (42_pid.md R85). -/
theorem pidValues_eq (cfg : Config) (r : Regs) (target measured : U32) :
    pidValues cfg r target measured =
      { error := (target.toNat : Int) - measured.toNat
        i1 := r.integ.toNat + r.perr.toInt
        i2 := max 0 (min (r.integ.toNat + r.perr.toInt) cfg.integralMax.toNat)
        raw := rawOutput cfg r target measured
        out := max 0 (min (rawOutput cfg r target measured) cfg.outputMax.toNat) } := by
  obtain ⟨error, i1, i2, out⟩ := pidValues_spec cfg r target measured
  have raw := pidValues_raw cfg r target measured
  rw [raw] at out
  cases e : pidValues cfg r target measured
  rw [e] at error i1 i2 raw out
  rw [PidValues.mk.injEq]
  exact ⟨error, i1, i2, raw, out⟩

theorem pidValues_error (cfg : Config) (r : Regs) (target measured : U32) :
    (pidValues cfg r target measured).error = (target.toNat : Int) - measured.toNat := by rw [pidValues_eq]

theorem pidValues_i2 (cfg : Config) (r : Regs) (target measured : U32) :
    (pidValues cfg r target measured).i2 = max 0 (min (r.integ.toNat + r.perr.toInt) cfg.integralMax.toNat) := by
  rw [pidValues_eq]

theorem pidValues_out (cfg : Config) (r : Regs) (target measured : U32) :
    (pidValues cfg r target measured).out = max 0 (min (rawOutput cfg r target measured) cfg.outputMax.toNat) := by
  rw [pidValues_eq]

/-- Settles O11: the model writes the five values, and refuses by their quotient. -/
theorem pidStepPerformsTheEightSteps : Obligations.PidStepPerformsTheEightSteps := by
  intro s target measured
  have writes := pidStep_eq target measured s
  rw [pidValues_eq] at writes
  exact ⟨fun fits => writes.trans (if_pos fits), fun wide => writes.trans (if_neg (Nat.not_le.mpr wide))⟩

/-- Settles O12: no value of a completing step leaves the range of its register. -/
theorem pidRegistersHoldExactValues : Obligations.PidRegistersHoldExactValues := by
  intro s t target measured run
  obtain ⟨fits, rfl⟩ := pidStep_cases run
  obtain ⟨perr, integ, out, torque⟩ := writePid_exact s target measured fits
  have quotient := pidTorque_le s target measured
  have scaled := torque.trans (congrArg (pidTorque s.cfg) out.symm)
  have clamped := out.trans (pidValues_out s.cfg s.regs target measured)
  refine ⟨perr.trans (pidValues_error s.cfg s.regs target measured),
    integ.trans (pidValues_i2 s.cfg s.regs target measured), clamped, by omega, scaled, fun wf => ?_⟩
  obtain ⟨ceiling, -⟩ := torque_fits_of_wf wf
  exact torque.trans_le (quotient.trans ceiling)

/-- The two flags say whether the clamps of the step changed their values (42_pid.md R96). -/
theorem pidStep_flags {target measured : U32} {s t : State} (run : pidStep target measured s = .next t) :
    (t.regs.sati = true ↔ s.regs.integ.toNat + s.regs.perr.toInt < 0
      ∨ s.cfg.integralMax.toNat < s.regs.integ.toNat + s.regs.perr.toInt)
    ∧ (t.regs.sato = true ↔ rawOutput s.cfg s.regs target measured < 0
      ∨ s.cfg.outputMax.toNat < rawOutput s.cfg s.regs target measured) := by
  obtain ⟨-, rfl⟩ := pidStep_cases run
  rw [pidValues_eq]
  simp only [writePid_regs, saturated, decide_eq_true_eq]
  omega

/-- With `PERR` and `INTEG` 0 only the derivative term is left (42_pid.md R100). -/
theorem rawOutput_of_perr_integ_zero {r : Regs} (perr : r.perr = 0) (integ : r.integ = 0) (cfg : Config)
    (target measured : U32) : rawOutput cfg r target measured =
      Int.fdiv (r.kd.toInt * (measured.toNat - target.toNat) * (cfg.dtDen : Nat) * (cfg.dtDen : Nat))
        (pidDenominator cfg) := by
  simp [rawOutput, pidDenominator, perr, integ]

/-- With a gain and an error that are not negative the derivative term of the first step is not positive
(42_pid.md R100). -/
theorem rawOutput_nonpos_of_first_step {r : Regs} (perr : r.perr = 0) (integ : r.integ = 0) (kd : 0 ≤ r.kd.toInt)
    {target measured : U32} (le : measured.toNat ≤ target.toNat) (cfg : Config) :
    rawOutput cfg r target measured ≤ 0 := by
  have change : (measured.toNat : Int) - target.toNat ≤ 0 := by omega
  have term : r.kd.toInt * (measured.toNat - target.toNat) * (cfg.dtDen : Nat) * (cfg.dtDen : Nat) ≤ 0 :=
    mul_nonpos_of_nonpos_of_nonneg (mul_nonpos_of_nonpos_of_nonneg
      (mul_nonpos_of_nonneg_of_nonpos kd change) (Int.natCast_nonneg _)) (Int.natCast_nonneg _)
  rw [rawOutput_of_perr_integ_zero perr integ, Int.fdiv_eq_ediv_of_nonneg _ (pidDenominator_pos cfg).le]
  exact Int.ediv_nonpos_of_nonpos_of_neg term (pidDenominator_pos cfg)

/-- The first step of a controller commands nothing, in every configuration (42_pid.md R100). -/
theorem pidStep_of_first_step {s : State} (perr : s.regs.perr = 0) (integ : s.regs.integ = 0)
    (kd : 0 ≤ s.regs.kd.toInt) {target measured : U32} (le : measured.toNat ≤ target.toNat) :
    ∃ u, pidStep target measured s = .next u ∧ u.regs.out = 0 ∧ u.regs.torque = 0 ∧ u.regs.integ = 0
      ∧ u.regs.perr.toInt = (target.toNat : Int) - measured.toNat := by
  have nonpos := rawOutput_nonpos_of_first_step perr integ kd le s.cfg
  have zero : (pidValues s.cfg s.regs target measured).out = 0 := by rw [pidValues_out]; omega
  have run := pidStep_of_out_eq_zero zero
  obtain ⟨error, sum, -⟩ := pidRegistersHoldExactValues s _ target measured run
  refine ⟨_, run, by simp [zero], rfl, BitVec.eq_of_toNat_eq ?_, error⟩
  have start : (s.regs.integ.toNat : Int) + s.regs.perr.toInt = 0 := by rw [perr, integ]; rfl
  rw [start] at sum
  exact Int.natCast_eq_zero.mp (sum.trans (by omega))

/-- Settles O13: `INIT` leaves the controller at its first step, with its own gains. -/
theorem firstPidStepAfterInitCommandsNothing : Obligations.FirstPidStepAfterInitCommandsNothing := by
  intro s kp ki kd target measured kdNonneg le
  obtain ⟨u, run, result⟩ := pidStep_of_first_step
    (s := setGains kp ki kd { s with regs := Regs.reset s.regs.hallprev }) rfl rfl kdNonneg le
  exact ⟨_, u, exec_init kp ki kd s, run, result⟩

/-- One step towards target 100 at standstill (42_pid.md R103 (b)). -/
theorem exec_pidstep_toward_100 {s : State}
    (fits : s.cfg.outputMax.toNat / (s.cfg.outputToTorqueScale : Nat) ≤ 65535) :
    ∃ t, exec (.pidstep 100 0) s = .next t ∧ t.cfg = s.cfg ∧ t.regs.perr.toInt = 100
      ∧ (t.regs.integ.toNat : Int) = max 0 (min (s.regs.integ.toNat + s.regs.perr.toInt) s.cfg.integralMax.toNat)
      ∧ (t.regs.sati = true ↔ s.regs.integ.toNat + s.regs.perr.toInt < 0
        ∨ s.cfg.integralMax.toNat < s.regs.integ.toNat + s.regs.perr.toInt)
      ∧ t.regs.out.toNat ≤ s.cfg.outputMax.toNat := by
  have run := pidStep_completes fits 100 0
  obtain ⟨perr, integ, -, out, -⟩ := pidRegistersHoldExactValues s _ 100 0 run
  obtain ⟨sati, -⟩ := pidStep_flags run
  exact ⟨_, run, rfl, perr, integ, sati, out⟩

/-- Settles O15: by induction on the number of steps, each of which adds the error 100 of the step before. -/
theorem integralRisesToItsCeilingAndStops : Obligations.IntegralRisesToItsCeilingAndStops := by
  intro s k perrZero integZero fits
  suffices ∃ t, repeatPid 100 0 (k + 1) s = .next t ∧ t.cfg = s.cfg
      ∧ t.regs.integ.toNat = min (100 * k) s.cfg.integralMax.toNat ∧ t.regs.perr.toInt = 100
      ∧ (t.regs.sati = true ↔ s.cfg.integralMax.toNat < 100 * k)
      ∧ t.regs.out.toNat ≤ s.cfg.outputMax.toNat by
    obtain ⟨t, run, -, integ, perr, sati, out⟩ := this
    exact ⟨t, run, integ, perr, by rw [Bool.eq_iff_iff, sati, decide_eq_true_iff], out⟩
  induction k with
  | zero =>
    obtain ⟨t, run, cfg, perr, integ, sati, out⟩ := exec_pidstep_toward_100 fits
    have start : (s.regs.integ.toNat : Int) + s.regs.perr.toInt = 0 := by rw [perrZero, integZero]; rfl
    rw [start] at integ sati
    exact ⟨t, run, cfg, by omega, perr, sati.trans (by omega), out⟩
  | succ k ih =>
    obtain ⟨u, earlier, cfgU, integU, perrU, -⟩ := ih
    rw [← cfgU] at fits integU ⊢
    obtain ⟨t, run, cfg, perr, integ, sati, out⟩ := exec_pidstep_toward_100 fits
    rw [integU, perrU] at integ sati
    refine ⟨t, ?_, cfg, by omega, perr, sati.trans (by omega), out⟩
    rw [repeatPid, earlier, andThen_next, run]

/-- The formula of the output with the constants of 00_scope.md R8 (42_pid.md R91). -/
theorem rawOutput_of_given_constants {cfg : Config} (dtNum : (cfg.dtNum : Nat) = 1) (dtDen : (cfg.dtDen : Nat) = 1000)
    (gainFrac : cfg.gainFrac = 16) (r : Regs) (target measured : U32) :
    rawOutput cfg r target measured = Int.fdiv
      (1000 * r.kp.toInt * r.perr.toInt
        + r.ki.toInt * max 0 (min (r.integ.toNat + r.perr.toInt) cfg.integralMax.toNat)
        + 1000000 * r.kd.toInt * (r.perr.toInt - ((target.toNat : Int) - measured.toNat))) 65536000 := by
  simp only [rawOutput, dtNum, dtDen, gainFrac]
  congr 1
  push_cast
  ring

/-- Settles O52: the built configuration holds the constants by definition, and O12 names the output. -/
theorem builtCoreUsesTheGivenConstants : Obligations.BuiltCoreUsesTheGivenConstants := by
  refine ⟨⟨rfl, rfl, rfl⟩, fun s t target measured dtNum dtDen gainFrac run => ?_⟩
  obtain ⟨-, -, out, -⟩ := pidRegistersHoldExactValues s t target measured run
  rwa [rawOutput_of_given_constants dtNum dtDen gainFrac] at out

end Sys2Proof.Machine
end

section
/-! PROOF. What a consuming `STEP` measures and where it is shown (44_host_commands.md R122, 60_exceptions.md R137): O24
and O50. -/

namespace Sys2Proof.Machine

/-- The controller runs on the measured speed when the verdict is OK (44_host_commands.md R122). -/
theorem controlUpdate_of_valid {s : State} (valid : s.se.verdict = .ok) (target : U32) :
    controlUpdate target s = pidStep target s.se.speed s := by
  rw [controlUpdate, valid]

/-- A consume whose verdict is OK is the controller's step on the measurement taken, and the record of its result
(44_host_commands.md R122, R127). -/
theorem consume_of_valid {s : State} (valid : (takeMeasurement s).se.verdict = .ok) (target : U32) :
    consume target s = andThen (pidStep target (takeMeasurement s).se.speed (takeMeasurement s))
      fun t => .next (emitTelemetry t) := by
  rw [consume, controlUpdate_of_valid valid]

/-- Events and at least one tick for each make the verdict OK, with the speed of 41_speed_estimator.md R78. -/
theorem estimateResult_of_valid {ts ec k speed : U32} (events : ec ≠ 0) (ticks : ec.toNat ≤ ts.toNat)
    (quotient : speed.toNat = k.toNat / (ts.toNat / ec.toNat)) : estimateResult ts ec k = ⟨.ok, speed⟩ := by
  obtain ⟨none, _⟩ | ⟨_, fewer, _⟩ | ⟨_, _, e⟩ := estimateResult_cases ts ec k
  · exact absurd none events
  · exact absurd ticks (Nat.not_le.mpr fewer)
  · have same : k / (ts / ec) = speed := BitVec.eq_of_toNat_eq (by simp [quotient])
    rw [e, same]

/-- Settles O24: the estimator answers OK, and the controller's quotient fits. -/
theorem validMeasurementRunsTheController : Obligations.ValidMeasurementRunsTheController := by
  intro s target speed dir pending events ticks quotient fits
  have taken := takeMeasurement_eq (s := setDir dir s) (estimateResult_of_valid events ticks quotient)
  have valid : (takeMeasurement (setDir dir s)).se.verdict = .ok := by rw [taken]
  have controls := pidStep_completes (s := takeMeasurement (setDir dir s)) fits target
    (takeMeasurement (setDir dir s)).se.speed
  refine ⟨_, taken ▸ controls, ?_⟩
  rw [exec_step, execStep_of_ready pending, consume_of_valid valid, controls, taken]
  rfl

/-- What an enabled `STEP` leaves when a measurement was pending: the estimator's answer in `EST` and `SPEED`, and the
accumulators and `READY` cleared (44_host_commands.md R122, 20_memory.md R43). -/
theorem execStep_measures {target : U32} {dir : Direction} {s t : State} (pending : s.regs.ready = true)
    (run : execStep target dir true s = .next t) :
    t.se = estimateResult s.regs.tickSum s.regs.evCnt s.cfg.clockConstant
    ∧ t.regs.est = verdictCode t.se.verdict ∧ t.regs.speed = t.se.speed
    ∧ t.regs.tickSum = 0 ∧ t.regs.evCnt = 0 ∧ t.regs.ready = false := by
  rw [execStep_of_ready pending] at run
  obtain ⟨u, control, rfl⟩ := consume_cases run
  rw [controlUpdate_frame control]
  exact ⟨rfl, rfl, rfl, rfl, rfl, rfl⟩

/-- The verdict names the cause of an invalid measurement (41_speed_estimator.md R79, R80). -/
theorem estimateResult_verdict (ts ec k : U32) :
    ((estimateResult ts ec k).verdict = .stalled ↔ ec = 0)
    ∧ ((estimateResult ts ec k).verdict = .zeroInterval ↔ ec ≠ 0 ∧ ts.toNat < ec.toNat) := by
  obtain ⟨none, e⟩ | ⟨events, fewer, e⟩ | ⟨events, ticks, e⟩ := estimateResult_cases ts ec k
  · rw [e]
    simp [none]
  · rw [e]
    simpa [fewer] using events
  · rw [e]
    simpa [ticks] using events

theorem verdictCode_eq_one (v : Verdict) : verdictCode v = 1#2 ↔ v = .stalled := by cases v <;> decide

theorem verdictCode_eq_two (v : Verdict) : verdictCode v = 2#2 ↔ v = .zeroInterval := by cases v <;> decide

/-- Settles O50: each flag is written by its operation from the cause itself. -/
theorem conditionsAreShownByTheirFlags : Obligations.ConditionsAreShownByTheirFlags := by
  refine ⟨fun s t h new run => ?hall, fun s t target dir pending run => ?step, fun s t target measured run => ?pidstep⟩
  case hall =>
    rw [exec_hall_of_ne new] at run
    cases run
    exact driveResult_inv s.cfg.commTable h s.regs.dir s.regs.torque
  case step =>
    obtain ⟨estimate, est, -⟩ := execStep_measures pending run
    obtain ⟨stalled, zeroInterval⟩ := estimateResult_verdict s.regs.tickSum s.regs.evCnt s.cfg.clockConstant
    simp only [conditionShown, decide_eq_true_eq, est, estimate, verdictCode_eq_one, verdictCode_eq_two]
    exact ⟨stalled, zeroInterval⟩
  case pidstep => exact pidStep_flags run

end Sys2Proof.Machine
end

section
/-! PROOF. The timer, the accumulators and `READY` over a cycle (43_dispatcher.md R109 to R114, 20_memory.md R39): O45,
O46 and O47. -/

namespace Sys2Proof.Machine

/-- The four registers a measurement is taken from. -/
def SameMeasurement (r r' : Regs) : Prop :=
  r'.timer = r.timer ∧ r'.tickSum = r.tickSum ∧ r'.evCnt = r.evCnt ∧ r'.ready = r.ready

/-- An enabled `STEP` that finds nothing pending, and one that is not enabled, take no measurement
(44_host_commands.md R123, R125). -/
theorem execStep_sameMeasurement {target : U32} {dir : Direction} {en : Bool} {s t : State}
    (run : execStep target dir en s = .next t) (idle : ¬(en = true ∧ s.regs.ready = true)) :
    SameMeasurement s.regs t.regs := by
  obtain ⟨-, rfl⟩ | ⟨-, -, rfl⟩ | ⟨enabled, pending, -⟩ := execStep_cases run
  · exact ⟨rfl, rfl, rfl, rfl⟩
  · exact ⟨rfl, rfl, rfl, rfl⟩
  · exact absurd ⟨enabled, pending⟩ idle

theorem execStep_timer {target : U32} {dir : Direction} {en : Bool} {s t : State}
    (run : execStep target dir en s = .next t) : t.regs.timer = s.regs.timer := by
  obtain ⟨-, -, -, timer, -⟩ := stepLeavesOutputsTimerAndGains s t target dir en run
  exact timer

/-- A cycle's command is a `STEP`, enabled by `cmd[33]`, exactly when its opcode is 3 (30_encoding.md R57). -/
theorem carriesEnabledStep_eq {p : Pins} (noReset : p.rst = false) :
    carriesEnabledStep p = (p.cmdValid && decide (opField p.cmd = 3#4) && p.cmd.getLsbD 33) := by
  rw [Bool.eq_iff_iff, carriesEnabledStep_eq_true]
  simp [noReset, and_assoc]

/-- Of the commands only `INIT` and a consuming `STEP` touch the measurement: `INIT` clears it, the consume clears all
of it but the timer (43_dispatcher.md R113, R114). -/
theorem commandPart_measurement_cases {p : Pins} {s u : State} (noReset : p.rst = false)
    (run : commandPart p s = .next u) :
    (commandOp p = some 1#4 ∧ carriesEnabledStep p = false
      ∧ u.regs.timer = 0 ∧ u.regs.tickSum = 0 ∧ u.regs.evCnt = 0 ∧ u.regs.ready = false)
    ∨ (commandOp p ≠ some 1#4 ∧ carriesEnabledStep p = true ∧ s.regs.ready = true
      ∧ u.regs.timer = s.regs.timer ∧ u.regs.tickSum = 0 ∧ u.regs.evCnt = 0 ∧ u.regs.ready = false)
    ∨ (commandOp p ≠ some 1#4 ∧ ¬(carriesEnabledStep p = true ∧ s.regs.ready = true)
      ∧ SameMeasurement s.regs u.regs) := by
  simp only [ne_eq, commandOp_eq_some, carriesEnabledStep_eq noReset]
  obtain ⟨absent, rfl⟩ | ⟨valid, nop, rfl⟩ | ⟨valid, init, kp, ki, kd, rfl⟩ | ⟨valid, retune, kp, ki, kd, rfl⟩
    | ⟨valid, step, target, dir, stepRun⟩ | ⟨valid, force, rfl⟩ | ⟨valid, reserved, rfl⟩ := commandPart_cases run
  · simp [absent, SameMeasurement]
  · simp [nop, SameMeasurement]
  · simp [noReset, valid, init, Regs.reset]
  · simp [retune, SameMeasurement]
  · by_cases consumes : p.cmd.getLsbD 33 = true ∧ s.regs.ready = true
    · obtain ⟨enabled, pending⟩ := consumes
      rw [enabled] at stepRun
      obtain ⟨-, -, -, tickSum, evCnt, ready⟩ := execStep_measures pending stepRun
      simp [valid, step, enabled, pending, tickSum, evCnt, ready, execStep_timer stepRun]
    · have idle : ¬((p.cmdValid && decide (opField p.cmd = 3#4) && p.cmd.getLsbD 33) = true ∧ s.regs.ready = true) := by
        simpa [valid, step] using consumes
      exact .inr (.inr ⟨by simp [step], idle, execStep_sameMeasurement stepRun consumes⟩)
  · simp [force, SameMeasurement]
  · have notInit : opField p.cmd ≠ 1#4 := fun e => absurd (e ▸ reserved) (by decide)
    have notStep : opField p.cmd ≠ 3#4 := fun e => absurd (e ▸ reserved) (by decide)
    simp [notInit, notStep, SameMeasurement]

theorem carriesHall_eq {p : Pins} (noReset : p.rst = false) (s : State) :
    carriesHall s p = (p.hallIn != s.regs.hallprev) := by simp [carriesHall, noReset]

/-- A measurement is pending for the command of a cycle if one was before or the cycle carries an event
(43_dispatcher.md R115). -/
theorem afterHall_ready_beginCycle {p : Pins} (noReset : p.rst = false) (s : State) :
    (afterHall p (beginCycle s)).regs.ready = (s.regs.ready || carriesHall s p) := by
  rw [afterHall_ready, carriesHall_eq noReset, beginCycle_regs]

theorem afterHall_timer {p : Pins} (noReset : p.rst = false) (s : State) :
    (afterHall p (beginCycle s)).regs.timer = if carriesHall s p then 0 else s.regs.timer + tickCount p := by
  obtain ⟨event, noEvent⟩ := afterHall_counts p s noReset
  cases carries : carriesHall s p with
  | true =>
    obtain ⟨timer, -⟩ := event carries
    exact timer
  | false =>
    obtain ⟨timer, -⟩ := noEvent carries
    exact timer

/-- Settles O45: what the Hall part leaves pending the command takes or leaves. -/
theorem sequencerFollowsItsTable : Obligations.SequencerFollowsItsTable := by
  intro s t run
  obtain ⟨reset, rfl⟩ | ⟨noReset, command⟩ := step_cases_commandPart run
  · simp [reset, Regs.reset]
  obtain ⟨init, -, -, -, -, ready⟩ | ⟨noInit, enabled, -, -, -, -, ready⟩ | ⟨noInit, idle, -, -, -, ready⟩ :=
    commandPart_measurement_cases noReset command
  · simp [init, ready]
  · simp [enabled, ready]
  · rw [afterHall_ready_beginCycle noReset] at ready idle
    cases e : carriesEnabledStep (pinsNow s) with
    | false => simp [noReset, noInit, ready]
    | true =>
      have nothing : (s.regs.ready || carriesHall s (pinsNow s)) = false := by simpa [e] using idle
      simp [ready, nothing]

/-- Settles O46: the tick and the Hall part count, `INIT` and the consume clear. -/
theorem everyTickAndEventIsCountedOnce : Obligations.EveryTickAndEventIsCountedOnce := by
  intro s t run
  obtain ⟨reset, rfl⟩ | ⟨noReset, command⟩ := step_cases_commandPart run
  · simp [reset, Regs.reset]
  have pending := afterHall_ready_beginCycle noReset s
  have timerCounts := afterHall_timer noReset s
  obtain ⟨event, noEvent⟩ := afterHall_counts (pinsNow s) s noReset
  obtain ⟨init, -, timer, tickSum, evCnt, -⟩ | ⟨noInit, enabled, ready, timer, tickSum, evCnt, -⟩
    | ⟨noInit, idle, timer, tickSum, evCnt, -⟩ := commandPart_measurement_cases noReset command
  · exact ⟨by simp [init, timer], fun _ => ⟨tickSum, evCnt⟩, fun _ noInit => absurd init noInit⟩
  · rw [pending, Bool.or_eq_true] at ready
    exact ⟨by simp [noReset, noInit, timer, timerCounts], fun _ => ⟨tickSum, evCnt⟩,
      fun _ _ idle => absurd ⟨enabled, ready⟩ idle⟩
  · rw [pending, Bool.or_eq_true] at idle
    refine ⟨by simp [noReset, noInit, timer, timerCounts], fun clears => ?clears, fun _ _ _ => ⟨?event, ?noEvent⟩⟩
    case clears => simp [noReset, noInit, idle] at clears
    case event =>
      intro carries
      obtain ⟨-, sum, count⟩ := event carries
      exact ⟨tickSum.trans sum, evCnt.trans count⟩
    case noEvent =>
      intro carries
      obtain ⟨-, sum, count⟩ := noEvent carries
      exact ⟨tickSum.trans sum, evCnt.trans count⟩

theorem decodeCommand_of_step {c : CommandWord} (op : opField c = 3#4) :
    ∃ target dir, decodeCommand c = .step target dir (c.getLsbD 33) := by
  simpa [op] using decodeCommand_cases c

/-- The command of a cycle that carries an enabled `STEP` (30_encoding.md R57). -/
theorem commandPart_of_enabledStep {p : Pins} (enabled : carriesEnabledStep p = true) :
    ∃ target dir, ∀ s, commandPart p s = execStep target dir true s := by
  obtain ⟨-, valid, op, en⟩ := carriesEnabledStep_eq_true.mp enabled
  obtain ⟨target, dir, word⟩ := decodeCommand_of_step op
  refine ⟨target, dir, fun s => ?_⟩
  rw [commandPart_of_valid valid, word, en, exec_step]

/-- Settles O47: the consume finds the event of its own cycle in the accumulators. -/
theorem consumeSeesTheWholeEvent : Obligations.ConsumeSeesTheWholeEvent := by
  intro s t run carries enabled
  obtain ⟨noReset, -⟩ := carriesEnabledStep_eq_true.mp enabled
  obtain ⟨event, -⟩ := afterHall_counts (pinsNow s) s noReset
  obtain ⟨timerZero, sum, count⟩ := event carries
  obtain ⟨cfg, -⟩ := afterHall_frame (pinsNow s) (beginCycle s)
  have pending : (afterHall (pinsNow s) (beginCycle s)).regs.ready = true := by
    simp [afterHall_ready_beginCycle noReset, carries]
  obtain ⟨target, dir, isStep⟩ := commandPart_of_enabledStep enabled
  rw [step_eq_commandPart noReset, isStep] at run
  obtain ⟨estimate, -, speed, tickSum, evCnt, ready⟩ := execStep_measures pending run
  rw [sum, count, cfg] at estimate
  refine ⟨?_, speed, tickSum, evCnt, (execStep_timer run).trans timerZero, ready⟩
  rw [exec_estimate, estimate]
  rfl

end Sys2Proof.Machine
end

section
/-! PROOF. The reset state and the invariant of the registers, operation by operation (10_state.md R17, R20, R28, R30):
O2, O37 and O38. -/

namespace Sys2Proof.Machine

/-- Settles O2: the constant is built from the reset values. -/
theorem resetStateIsAllZero : Obligations.ResetStateIsAllZero := ⟨rfl, rfl, rfl, rfl⟩

/-- Reset values meet the invariant under any configuration and any `HALLPREV`. -/
theorem inv_of_regs_reset {s : State} {h : Hall} (reset : s.regs = Regs.reset h) : s.Inv := by
  constructor <;> simp [reset, Regs.reset]

/-- Settles O37: the registers of the constant are reset values, whatever the configuration. -/
theorem invariantHoldsAtReset : Obligations.InvariantHoldsAtReset := inv_of_regs_reset rfl

/-- An event shows its own pattern, and `SECINV` says whether it is an invalid one (43_dispatcher.md R111). -/
theorem hallEvent_keeps_inv {s : State} (inv : s.Inv) (h : Hall) : (hallEvent h s).Inv :=
  have pattern : (hallEvent h s).regs.ind = h := driveResult_ind _ h _ _
  have invalid : (hallEvent h s).regs.secinv = true ↔ h = 0 ∨ h = 7 := driveResult_inv _ h _ _
  { inv with
    idle_empty := nofun
    ind_shows := .inl pattern
    secinv_shows := by rw [pattern]; exact invalid.mp
    all_high_invalid := by rw [pattern]; exact fun high => invalid.mpr (.inr high) }

/-- A register that holds a clamped value stands on a bound when the clamp changed the value (42_pid.md R96). -/
theorem eq_bound_of_clamp_changed {v ceiling : U32} {x : Int} (holds : (v.toNat : Int) = max 0 (min x ceiling.toNat))
    (changed : x < 0 ∨ ceiling.toNat < x) : v = 0 ∨ v = ceiling := by
  obtain below | above := changed
  · exact .inl (BitVec.eq_of_toNat_eq (Int.natCast_eq_zero.mp (holds.trans (by omega))))
  · exact .inr (BitVec.eq_of_toNat_eq (by omega))

/-- The controller writes registers in their ranges, and a flag only over a value that stands on a bound
(42_pid.md R96, R99). -/
theorem pidStep_keeps_inv {target measured : U32} {s t : State} (inv : s.Inv)
    (run : pidStep target measured s = .next t) : t.Inv := by
  obtain ⟨perr, integ, out, outLe, torque, -⟩ := pidRegistersHoldExactValues s t target measured run
  obtain ⟨sati, sato⟩ := pidStep_flags run
  have perrRange : -(2 ^ 32 - 1) ≤ t.regs.perr.toInt ∧ t.regs.perr.toInt ≤ 2 ^ 32 - 1 :=
    perr ▸ pidError_range target measured
  have integLe : t.regs.integ.toNat ≤ s.cfg.integralMax.toNat := by omega
  obtain ⟨-, rfl⟩ := pidStep_cases run
  exact { inv with
    perr_range := perrRange
    integ_range := integLe
    out_range := outLe
    torque_scaled := torque
    sati_bound := fun set => eq_bound_of_clamp_changed integ (sati.mp set)
    sato_bound := fun set => eq_bound_of_clamp_changed out (sato.mp set) }

/-- Taking the measurement empties the accumulators with `READY`, and an invalid verdict comes with speed 0
(44_host_commands.md R122, R126). -/
theorem takeMeasurement_keeps_inv {s : State} (inv : s.Inv) : (takeMeasurement s).Inv := by
  obtain ⟨speedLe, invalidSpeed⟩ := estimateResult_range s.regs.tickSum s.regs.evCnt s.cfg.clockConstant
  exact { inv with
    est_legal := verdictCode_ne_three _
    idle_empty := fun _ => ⟨rfl, rfl⟩
    invalid_speed := fun code => invalidSpeed (mt (verdictCode_eq_zero _).mpr code)
    speed_range := speedLe }

theorem execStep_keeps_inv {target : U32} {dir : Direction} {en : Bool} {s t : State} (inv : s.Inv)
    (run : execStep target dir en s = .next t) : t.Inv := by
  have latched : (setDir dir s).Inv := inv.congr rfl rfl
  obtain ⟨-, rfl⟩ | ⟨-, -, rfl⟩ | ⟨-, -, u, control, rfl⟩ := execStep_cases run
  · exact inv
  · exact latched
  · have taken := takeMeasurement_keeps_inv latched
    have controlled : u.Inv := by
      obtain ⟨-, pid⟩ | ⟨-, rfl⟩ := controlUpdate_cases control
      · exact pidStep_keeps_inv taken pid
      · exact taken
    exact controlled.congr rfl rfl

/-- Every operation keeps the invariant. Those that write only the timer, the gains, the duty registers or fields that
are no registers keep it because it does not speak of these. -/
theorem exec_keeps_inv {i : Instr} {s t : State} (inv : s.Inv) (run : exec i s = .next t) : t.Inv := by
  cases i with
  | nop => cases run; exact inv
  | init kp ki kd =>
    cases run
    have reset : State.Inv { s with regs := Regs.reset s.regs.hallprev } := inv_of_regs_reset rfl
    exact reset.congr rfl rfl
  | retune kp ki kd => cases run; exact inv.congr rfl rfl
  | step target dir en => exact execStep_keeps_inv inv run
  | force d0 d1 d2 d3 d4 d5 => cases run; exact inv.congr rfl rfl
  | reserved5 => cases run; exact inv.congr rfl rfl
  | reserved67 op => cases run; exact inv.congr rfl rfl
  | reserved8F op => cases run; exact inv.congr rfl rfl
  | tick => cases run; exact inv.congr rfl rfl
  | hall h =>
    obtain ⟨-, rfl⟩ | ⟨-, rfl⟩ := exec_hall_cases run
    · exact inv
    · exact hallEvent_keeps_inv inv h
  | drive h d t => cases run; exact inv.congr rfl rfl
  | estimate ts ec k => cases run; exact inv.congr rfl rfl
  | pidstep target measured => exact pidStep_keeps_inv inv run

theorem afterHall_keeps_inv {s : State} (inv : s.Inv) (p : Pins) : (afterHall p s).Inv := by
  have counted : (afterTick p s).Inv := inv.congr (afterTick_cfg p s) (by rw [afterTick_regs])
  by_cases same : p.hallIn = s.regs.hallprev
  · rwa [afterHall_of_eq same]
  · rw [afterHall_of_ne same]
    exact hallEvent_keeps_inv counted p.hallIn

theorem commandPart_keeps_inv {p : Pins} {s t : State} (inv : s.Inv) (run : commandPart p s = .next t) : t.Inv := by
  cases valid : p.cmdValid with
  | true => exact exec_keeps_inv inv (commandPart_of_valid valid s ▸ run)
  | false =>
    rw [commandPart_of_not_valid valid] at run
    cases run
    exact inv

/-- Settles O38: a reset edge establishes the invariant, and each part of another cycle keeps it. -/
theorem everyStepKeepsTheInvariant : Obligations.EveryStepKeepsTheInvariant := by
  intro s t inv run
  have begun : (beginCycle s).Inv := inv.congr rfl rfl
  obtain ⟨-, rfl⟩ | ⟨-, command⟩ := step_cases_commandPart run
  · exact inv_of_regs_reset rfl
  · exact commandPart_keeps_inv (afterHall_keeps_inv begun (pinsNow s)) command

end Sys2Proof.Machine
end

section
/-! PROOF. What a well-formed configuration rules out: stops, shoot-through and duties above `MAX_DUTY`
(60_exceptions.md R136, 70_reset_and_hazards.md R159, R160): O39, O40 and O41. -/

namespace Sys2Proof.Machine

/-- A `STEP` stops only where its controller does (44_host_commands.md R122). -/
theorem execStep_completes {s : State} (fits : s.cfg.outputMax.toNat / (s.cfg.outputToTorqueScale : Nat) ≤ 65535)
    (target : U32) (dir : Direction) (en : Bool) : ∃ t, execStep target dir en s = .next t := by
  cases en with
  | false => exact ⟨s, execStep_disabled target dir s⟩
  | true =>
    cases ready : s.regs.ready with
    | false => exact ⟨_, execStep_of_not_ready ready target dir⟩
    | true =>
      rw [execStep_of_ready ready]
      by_cases valid : (takeMeasurement (setDir dir s)).se.verdict = .ok
      · rw [consume_of_valid valid, pidStep_completes (s := takeMeasurement (setDir dir s)) fits]
        exact ⟨_, rfl⟩
      · exact ⟨_, consume_of_invalid valid target⟩

/-- Only the torque quotient can stop an operation (42_pid.md R95). -/
theorem exec_completes {s : State} (fits : s.cfg.outputMax.toNat / (s.cfg.outputToTorqueScale : Nat) ≤ 65535)
    (i : Instr) : ∃ t, exec i s = .next t := by
  cases i with
  | step target dir en => exact execStep_completes fits target dir en
  | pidstep target measured => exact ⟨_, pidStep_completes fits target measured⟩
  | hall h => exact ⟨_, (apply_ite Host.Outcome.next _ _ _).symm⟩
  | nop | init | retune | force | reserved5 | reserved67 | reserved8F | tick | drive | estimate => exact ⟨_, rfl⟩

theorem commandPart_completes {s : State} (fits : s.cfg.outputMax.toNat / (s.cfg.outputToTorqueScale : Nat) ≤ 65535)
    (p : Pins) : ∃ t, commandPart p s = .next t := by
  cases valid : p.cmdValid with
  | true => exact commandPart_of_valid valid s ▸ exec_completes fits _
  | false => exact ⟨s, commandPart_of_not_valid valid s⟩

theorem step_completes {s : State} (fits : s.cfg.outputMax.toNat / (s.cfg.outputToTorqueScale : Nat) ≤ 65535) :
    ∃ t, step s = .next t := by
  cases reset : (pinsNow s).rst with
  | true => exact ⟨_, step_of_reset reset⟩
  | false =>
    obtain ⟨cfg, -⟩ := afterHall_frame (pinsNow s) (beginCycle s)
    rw [step_eq_commandPart reset]
    exact commandPart_completes (by rwa [cfg]) (pinsNow s)

/-- Settles O39: in a well-formed configuration every quotient fits, and no step writes the configuration. -/
theorem nothingStopsAWellFormedCore : Obligations.NothingStopsAWellFormedCore := by
  intro s wf
  obtain ⟨-, fits⟩ := torque_fits_of_wf wf
  obtain ⟨t, run⟩ := step_completes fits
  exact ⟨exec_completes fits, t, run, by rwa [configurationIsNeverWritten s t run]⟩

/-- Without a `FORCE` the duties after a cycle are all 0, or what `DRIVE` answers for the direction and torque from
before it, or the duties from before it (45_pwm_arbiter.md R130, R134). -/
theorem step_duty_cases {s t : State} (run : step s = .next t) (noForce : commandOp (pinsNow s) ≠ some 4#4) :
    t.regs.duty = dutyOff
    ∨ (∃ h, t.regs.duty = (driveResult s.cfg.commTable h s.regs.dir s.regs.torque).duty)
    ∨ t.regs.duty = s.regs.duty := by
  obtain ⟨clears, -, otherwise⟩ := dutyRegistersHoldTheLastWriter s t run
  by_cases cleared : (pinsNow s).rst = true ∨ commandOp (pinsNow s) = some 1#4
  · exact .inl (clears cleared)
  · rw [not_or, Bool.not_eq_true] at cleared
    obtain ⟨noReset, noInit⟩ := cleared
    obtain ⟨event, noEvent⟩ := otherwise noReset noInit noForce
    cases carries : carriesHall s (pinsNow s) with
    | true =>
      obtain ⟨d, duty, drive⟩ := event carries
      rw [exec_drive, Host.Outcome.next.injEq, State.mk.injEq] at drive
      obtain ⟨-, -, result, -⟩ := drive
      exact .inr (.inl ⟨(pinsNow s).hallIn, by rw [duty, result]⟩)
    | false => exact .inr (.inr (noEvent carries))

/-- Settles O40: neither all switches off nor a result of `DRIVE` under a well-formed table has both switches of a phase
on. -/
theorem onlyForceCanShootThrough : Obligations.OnlyForceCanShootThrough := by
  intro s t wf safe noForce run
  obtain off | ⟨h, driven⟩ | kept := step_duty_cases run noForce
  · rw [off]
    exact fun p => .inl (highSide_dutyOff p)
  · rw [driven]
    exact driveResult_noShootThrough wf h s.regs.dir s.regs.torque
  · rwa [kept]

/-- Under the invariant the commanded torque is in the range of a well-formed configuration (00_scope.md R10 (b)). -/
theorem torque_le_maxDuty {s : State} (inv : s.Inv) (wf : s.cfg.wf = true) :
    s.regs.torque.toNat ≤ s.cfg.maxDuty.toNat := by
  obtain ⟨ceiling, -⟩ := torque_fits_of_wf wf
  rw [inv.torque_scaled]
  exact (Nat.div_le_div_right inv.out_range).trans ceiling

/-- What is 0 or a value in range is in range. -/
theorem toNat_le_of_eq_zero_or_eq {w n : Nat} {x t : BitVec w} (value : x = 0 ∨ x = t) (le : t.toNat ≤ n) :
    x.toNat ≤ n := by
  obtain rfl | rfl := value
  · simp
  · exact le

/-- Settles O41: a duty that no `FORCE` wrote is 0, the commanded torque, or what it was. -/
theorem onlyForceCanExceedMaxDuty : Obligations.OnlyForceCanExceedMaxDuty := by
  intro s t inv wf within noForce run
  have torqueLe := torque_le_maxDuty inv wf
  rw [configurationIsNeverWritten s t run]
  obtain off | ⟨h, driven⟩ | kept := step_duty_cases run noForce
  · rw [off]
    exact fun p => by simp
  · rw [driven]
    intro p
    obtain ⟨high, low⟩ := driveResult_values s.cfg.commTable h s.regs.dir s.regs.torque p
    exact ⟨toNat_le_of_eq_zero_or_eq high torqueLe, toNat_le_of_eq_zero_or_eq low torqueLe⟩
  · rwa [kept]

end Sys2Proof.Machine
end

section
/-! PROOF. The report flags steer nothing (10_state.md R21): O48. A part of the machine ignores the flags when wiping
them before it changes nothing but flags after it; such parts compose. -/

namespace Sys2Proof.Machine

/-- The outcome with the report flags of its state wiped. -/
def wipeOutcome (o : Host.Outcome State Fault Refusal) : Host.Outcome State Fault Refusal :=
  andThen o fun t => .next (wipeReportFlags t)

/-- Wiping the report flags before `f` shows at most in the report flags after it. -/
def IgnoresFlags (f : State → Host.Outcome State Fault Refusal) : Prop :=
  ∀ s, wipeOutcome (f (wipeReportFlags s)) = wipeOutcome (f s)

theorem ignoresFlags_next {u : State → State}
    (h : ∀ s, wipeReportFlags (u (wipeReportFlags s)) = wipeReportFlags (u s)) : IgnoresFlags fun s => .next (u s) :=
  fun s => congrArg Host.Outcome.next (h s)

theorem IgnoresFlags.andThen {f g : State → Host.Outcome State Fault Refusal} (hf : IgnoresFlags f)
    (hg : IgnoresFlags g) : IgnoresFlags fun s => andThen (f s) g := by
  have wiped : ∀ o, wipeOutcome (Machine.andThen o g) = Machine.andThen (wipeOutcome o) fun t => wipeOutcome (g t) := by
    intro o
    rw [wipeOutcome, wipeOutcome, andThen_assoc, andThen_assoc]
    congr 1
    funext t
    exact (hg t).symm
  intro s
  rw [wiped, wiped, hf s]

/-- A part that ignores the flags and completes from one state completes from every state that differs in them only,
with results that differ in them only. -/
theorem IgnoresFlags.next_of_wipe_eq {f : State → Host.Outcome State Fault Refusal} (hf : IgnoresFlags f)
    {s s' t : State} (same : wipeReportFlags s = wipeReportFlags s') (run : f s = .next t) :
    ∃ t', f s' = .next t' ∧ wipeReportFlags t = wipeReportFlags t' := by
  have wiped : wipeOutcome (f s') = .next (wipeReportFlags t) := by
    rw [← hf s', ← same, hf s, run]
    rfl
  obtain ⟨t', run', eq⟩ := andThen_eq_next.mp wiped
  exact ⟨t', run', (Host.Outcome.next.inj eq).symm⟩

/-- The controller reads the error, the integral and the gains (42_pid.md R85). -/
theorem ignoresFlags_pidStep (target measured : U32) : IgnoresFlags (pidStep target measured) := by
  intro s
  have values : pidValues (wipeReportFlags s).cfg (wipeReportFlags s).regs target measured
      = pidValues s.cfg s.regs target measured := rfl
  rw [pidStep_eq, pidStep_eq, values]
  by_cases fits : pidTorque s.cfg (pidValues s.cfg s.regs target measured).out ≤ 65535
  · rw [if_pos fits, if_pos (show pidTorque (wipeReportFlags s).cfg _ ≤ 65535 from fits)]
    rfl
  · rw [if_neg fits, if_neg (show ¬pidTorque (wipeReportFlags s).cfg _ ≤ 65535 from fits)]

/-- The controller part reads the estimator's result wires and not `EST` (44_host_commands.md R122). -/
theorem ignoresFlags_controlUpdate (target : U32) : IgnoresFlags (controlUpdate target) := by
  intro s
  by_cases valid : s.se.verdict = .ok
  · rw [controlUpdate_of_valid valid, controlUpdate_of_valid (s := wipeReportFlags s) valid]
    exact ignoresFlags_pidStep target s.se.speed s
  · rw [controlUpdate_of_invalid valid, controlUpdate_of_invalid (s := wipeReportFlags s) valid]
    rfl

theorem ignoresFlags_consume (target : U32) : IgnoresFlags (consume target) :=
  have measured : IgnoresFlags fun s => controlUpdate target (takeMeasurement s) :=
    (ignoresFlags_next (u := takeMeasurement) fun _ => rfl).andThen (ignoresFlags_controlUpdate target)
  measured.andThen (ignoresFlags_next fun _ => rfl)

/-- `STEP` asks `READY` and no report flag (44_host_commands.md R122). -/
theorem ignoresFlags_execStep (target : U32) (dir : Direction) (en : Bool) :
    IgnoresFlags (execStep target dir en) := by
  intro s
  cases en with
  | false => rfl
  | true =>
    cases ready : s.regs.ready with
    | false =>
      rw [execStep_of_not_ready ready, execStep_of_not_ready (s := wipeReportFlags s) ready]
      rfl
    | true =>
      rw [execStep_of_ready ready, execStep_of_ready (s := wipeReportFlags s) ready]
      exact (ignoresFlags_next (u := setDir dir) fun _ => rfl).andThen (ignoresFlags_consume target) s

/-- `HALL` asks `HALLPREV`, and its event writes `SECINV` without reading a report flag (43_dispatcher.md R111). -/
theorem ignoresFlags_execHall (h : Hall) : IgnoresFlags (execHall h) := by
  intro s
  by_cases same : h = s.regs.hallprev
  · rw [execHall, execHall, if_pos same, if_pos (show h = (wipeReportFlags s).regs.hallprev from same)]
    rfl
  · rw [execHall, execHall, if_neg same, if_neg (show ¬h = (wipeReportFlags s).regs.hallprev from same)]
    rfl

theorem ignoresFlags_exec (i : Instr) : IgnoresFlags (exec i) := by
  cases i with
  | step target dir en => exact ignoresFlags_execStep target dir en
  | hall h => exact ignoresFlags_execHall h
  | pidstep target measured => exact ignoresFlags_pidStep target measured
  | nop | init | retune | force | reserved5 | reserved67 | reserved8F | tick | drive | estimate =>
    exact ignoresFlags_next fun _ => rfl

theorem ignoresFlags_runAll (l : List Instr) : IgnoresFlags (runAll l) := by
  induction l with
  | nil => exact ignoresFlags_next fun _ => rfl
  | cons i rest ih => exact (ignoresFlags_exec i).andThen ih

theorem ignoresFlags_clockEdge (p : Pins) : IgnoresFlags (clockEdge p) := by
  intro s
  unfold clockEdge
  split
  · rfl
  · exact (ignoresFlags_runAll (cycleOperations p)).andThen (ignoresFlags_next fun _ => rfl) s

/-- The pins of a cycle do not depend on the flags, so a step is one clock edge for both states. -/
theorem ignoresFlags_step : IgnoresFlags step := fun s =>
  (ignoresFlags_next (u := beginCycle) fun _ => rfl).andThen (ignoresFlags_clockEdge (pinsNow s)) s

/-- Settles O48: every operation and the step ignore the report flags. -/
theorem reportFlagsSteerNothing : Obligations.ReportFlagsSteerNothing := fun _ _ same =>
  ⟨fun i _ run => (ignoresFlags_exec i).next_of_wipe_eq same run,
    fun _ run => ignoresFlags_step.next_of_wipe_eq same run⟩

end Sys2Proof.Machine
end
